-- ==== Sys2Proof/Word.lean ====
section
/-! DEFINITION. The word types of the CCE (spec/10_state.md R20, spec/20_memory.md R60) and the extraction of a
bit field as a number (spec/00_scope.md R10). -/

namespace Sys2Proof

/-- A register of the block: `XLEN` = 32 bits (10 R20). -/
abbrev Word := BitVec 32

/-- A byte of memory (20 R60). -/
abbrev Byte := BitVec 8

/-- The unsigned number in the `len` bits of `w` from bit `lo` upward: `w[lo+len-1:lo]` of 00 R10. -/
def field (w : Word) (lo len : Nat) : Nat := w.toNat / 2 ^ lo % 2 ^ len

end Sys2Proof
end

