-- ==== Sys2Proof/Syntax.lean ====
section
/-! DEFINITION. The instructions of the CCE: one constructor per row of spec/opcode_table.json, with the operand
fields of the opcode word CTRL (spec/30_encoding.md R92 to R99); the format word FMT and its enumerations (30 R100
to R104); the names of the registers (spec/10_state.md R21) and of the error codes (spec/60_exceptions.md R291). -/

namespace Sys2Proof

/-- `CTRL.MODEL` (30 R97). -/
inductive ColorModel where
  | linear | lifting
deriving DecidableEq, Repr

/-- `CTRL.RANGE` (30 R96): TV (studio, limited) or PC (full). -/
inductive YuvRange where
  | tv | pc
deriving DecidableEq, Repr

/-- The job named by the opcode word CTRL (30 R107). ENC and DEC carry the CTRL fields format C uses (30 R91);
in format S every other field of CTRL must be 0, so nothing is left to carry. -/
inductive Instr where
  | enc (model : ColorModel) (rot : BitVec 2) (range : YuvRange) (tf : BitVec 4)
  | dec (model : ColorModel) (rot : BitVec 2) (range : YuvRange) (tf : BitVec 4)
  | widenD | widen10 | widen12 | widen16
  | narrowD | narrow10 | narrow12 | narrow16
  | perm
  | u2h
  | h2u
deriving DecidableEq, Repr

/-- The named channels of a surface (43 R220). -/
inductive Chan where
  | r | g | b | a | l
deriving DecidableEq, Repr

/-- A surface layout, codes 1 to 8 of 30 R101. -/
inductive Surf where
  | rgb | bgr | rgba | bgra | argb | abgr | rgba1010102 | gray
deriving DecidableEq, Repr

/-- `FMT.SUBS` (30 R103). -/
inductive Subs where
  | s444 | s422 | s420 | s411 | s410 | s400
deriving DecidableEq, Repr

/-- `FMT.ARR` (30 R104). -/
inductive Arr where
  | p3 | spuv | spvu
deriving DecidableEq, Repr

/-- The format word FMT, read field by field (30 R100). `surfB = none` is code 0, no surface. `bits` is the literal
number in the field, legal or not (30 R102). -/
structure Fmt where
  surfA : Surf
  surfB : Option Surf
  bits : BitVec 5
  subs : Subs
  arr : Arr
deriving DecidableEq, Repr

/-- A legal bit depth (30 R95). -/
inductive Depth where
  | d8 | d10 | d12 | d16
deriving DecidableEq, Repr

/-- The 23 registers of a job descriptor (30 R90), which the host may write only while not BUSY (10 R23). -/
inductive DescReg where
  | ctrl | fmt | width | height
  | aPtr | aStride | bPtr | bStride | yPtr | yStride | uPtr | uStride | vPtr | vStride
  | m0 | m1 | m2 | m3 | m4 | m5 | m6 | m7 | m8
deriving DecidableEq, Repr

/-- The 32 registers of the block (10 R21). -/
inductive Reg where
  | id | cap
  | desc (r : DescReg)
  | start | status | errCode | errInfo | irqEn | rowPos | sreset
deriving DecidableEq, Repr

/-- The values of ERRCODE (60 R291). -/
inductive ErrCode where
  | none | op | bits | unsup | dim | null | align | stride | range | overlap
deriving DecidableEq, Repr

end Sys2Proof
end

