-- ==== Sys2Proof/Machine/Arith.lean ====
section
/-! DEFINITION. The pseudocode primitives of spec/00_scope.md R11 that are arithmetic, and the depth and channel
counts that follow from the enumerations. -/

namespace Sys2Proof.Machine

/-- `maxv(n) = 2^n - 1` (00 R11). -/
def maxv (n : Nat) : Nat := 2 ^ n - 1

/-- `ceil_div(a, b)` for `b > 0` (00 R11). -/
def ceilDiv (a b : Nat) : Nat := (a + b - 1) / b

/-- `a >> k` on a signed integer: the floor of `a / 2^k` (00 R11). -/
def asr (a : Int) (k : Nat) : Int := a / ((2 ^ k : Nat) : Int)

/-- `clamp(v, lo, hi)` (00 R11). -/
def clamp (v lo hi : Int) : Int := if v < lo then lo else if hi < v then hi else v

/-- The clamp to `[0, maxv(n)]` that every stored component passes (40 R137), as an unsigned sample. -/
def clampSample (v : Int) (n : Nat) : Nat := (clamp v 0 (maxv n)).toNat

/-- The nearest integer to `p / d`, ties to even (42 R205), for `d > 0`. -/
def roundHalfEven (p d : Nat) : Nat :=
  if 2 * (p % d) < d then p / d
  else if d < 2 * (p % d) then p / d + 1
  else if p / d % 2 = 0 then p / d else p / d + 1

/-- `rnd(q)`: to nearest, ties away from zero (00 R11). -/
def rnd (q : Rat) : Int := if q < 0 then -((-q + 1 / 2).floor) else (q + 1 / 2).floor

end Sys2Proof.Machine

namespace Sys2Proof

/-- The number of bits of a depth (30 R95). -/
def Depth.bits : Depth → Nat
  | .d8 => 8
  | .d10 => 10
  | .d12 => 12
  | .d16 => 16

/-- The depth with that many bits; only 8, 10, 12 and 16 are legal (30 R95). -/
def Depth.ofBits : Nat → Option Depth
  | 8 => some .d8
  | 10 => some .d10
  | 12 => some .d12
  | 16 => some .d16
  | _ => none

/-- `es(n)`, the element size of an integer sample in bytes: 1 if `n` = 8, else 2 (20 R64). -/
def Depth.es : Depth → Nat
  | .d8 => 1
  | .d10 => 2
  | .d12 => 2
  | .d16 => 2

end Sys2Proof
end

