-- ==== Sys2Proof/Config.lean ====
section
/-! DEFINITION. The build parameters of a CCE (spec/00_scope.md R8; spec/92_eei_decisions.md, the table of parameters
left open) and the source of free values for what the spec calls *any value*
(spec/93_implementation_defined.md U6, U8). -/

namespace Sys2Proof

/-- `VLEN_BITS`, the datapath width: 128 (the default), 256 or 512 (92, parameters left open). -/
inductive VlenBits where
  | v128 | v256 | v512
deriving DecidableEq, Repr

/-- `SY_410`, the vertical factor of 4:1:0: 2 (the default) or 4 (00 R8). -/
inductive Sy410 where
  | two | four
deriving DecidableEq, Repr

/-- `NARROW_RND`, the rounding of NARROW: `HALF_UP` (the default) or `TRUNC` (00 R8). -/
inductive NarrowRnd where
  | halfUp | trunc
deriving DecidableEq, Repr

/-- The parameters of one CCE, fixed when the block is built (00 R8). `MAX_DIM` is at most 65535, so 16 bits
hold it. The field defaults are the spec's. -/
structure Config where
  /-- `MAX_DIM`, the largest legal WIDTH and HEIGHT. -/
  maxDim : BitVec 16 := 65535
  /-- `VLEN_BITS`, visible only in CAP. -/
  vlen : VlenBits := .v128
  /-- `SY_410`. -/
  sy410 : Sy410 := .two
  /-- `NARROW_RND`. -/
  narrowRnd : NarrowRnd := .halfUp
deriving DecidableEq, Repr

/-- The parameters at their defaults (00 R8). -/
def Config.default : Config := {}

/-- The `i`-th free value: a byte the spec calls *any value* (93 U6, U8). It has no body, so no proof can see
what it is. Assumption log 6. -/
opaque Config.freeByte : Nat → Byte

end Sys2Proof
end

