-- ==== Sys2Proof/Machine/State.lean ====
section
/-! DEFINITION. The state of the CCE as plain data (spec/10_state.md): the descriptor registers, the control
registers, memory, the engine-owned window of spec/20_memory.md R72, and the inputs still to come; the two kinds of
stop; and the machine right after reset (10 R40). -/

namespace Sys2Proof.Machine

/-- Memory (20 R60) as address and byte pairs in one canonical form (`Memory.wf`, Machine/Memory.lean): addresses
strictly rising and below 2^32, and no entry equal to what an unlisted address reads as. -/
abbrev Memory := List Host.Cell

/-- The 23 descriptor registers (30 R90), each 32 bits. -/
structure Desc where
  ctrl : Word
  fmt : Word
  width : Word
  height : Word
  aPtr : Word
  aStride : Word
  bPtr : Word
  bStride : Word
  yPtr : Word
  yStride : Word
  uPtr : Word
  uStride : Word
  vPtr : Word
  vStride : Word
  m0 : Word
  m1 : Word
  m2 : Word
  m3 : Word
  m4 : Word
  m5 : Word
  m6 : Word
  m7 : Word
  m8 : Word
deriving DecidableEq, Repr

/-- The seven operations (30 R93). -/
inductive JobKind where
  | enc | dec | widen | narrow | perm | u2h | h2u
deriving DecidableEq, Repr

/-- The nine coefficients `m[i] = s32(x[Mi])`, unit 2^-16 (40 R131). -/
structure Coeffs where
  m0 : Int
  m1 : Int
  m2 : Int
  m3 : Int
  m4 : Int
  m5 : Int
  m6 : Int
  m7 : Int
  m8 : Int
deriving DecidableEq, Repr

/-- The parameters of one job, resolved from the opcode word, the descriptor and the build parameters: all that a
band step depends on besides memory (44 R258). Pointers, strides and counts are unsigned numbers (30 R105). For
format C there is no surface B (30 R91); `surfB` then repeats `surfA` and nothing reads it. -/
structure Job where
  kind : JobKind
  range : YuvRange
  depth : Depth
  surfA : Surf
  surfB : Surf
  subs : Subs
  arr : Arr
  /-- The subsampling factors `sx`, `sy` of 41 R161; both 1 for 4:0:0 and for format S. -/
  sx : Nat
  sy : Nat
  w : Nat
  h : Nat
  aPtr : Nat
  aStride : Nat
  bPtr : Nat
  bStride : Nat
  yPtr : Nat
  yStride : Nat
  uPtr : Nat
  uStride : Nat
  vPtr : Nat
  vStride : Nat
  mat : Coeffs
  rnd : NarrowRnd
deriving DecidableEq, Repr

/-- An accepted job whose completion the host has not read yet: its footprints are engine-owned (20 R72).
`tainted` says that the host wrote one of its owned bytes (93 U6). Assumption log 7 and 8. -/
structure OwnedJob where
  job : Job
  tainted : Bool
deriving DecidableEq, Repr

/-- What the outside world does in one step (44 R257, 60 R309). A register access carries its byte offset and its
size in bytes (10 R20); the host's memory accesses are bytes, since no access is promised to be atomic beyond one byte
(20 R69). `engineTurn` gives the step to the engine. Assumption log 2. -/
inductive Input where
  | regWrite (off size : Nat) (v : Word)
  | regRead (off size : Nat)
  | memWrite (addr : Word) (v : Byte)
  | memRead (addr : Word)
  | engineTurn
  | hardReset
deriving DecidableEq, Repr

/-- The state of one CCE. -/
structure State where
  /-- The build parameters (00 R8): no step changes them. Assumption log 5. -/
  cfg : Config
  /-- CTRL, FMT, the operand registers and the matrix file (10 R22, R26, R27, R35). -/
  desc : Desc
  /-- STATUS.BUSY (10 R30). -/
  busy : Bool
  /-- STATUS.DONE (10 R30). -/
  done : Bool
  /-- STATUS.ERR (10 R30). -/
  err : Bool
  /-- ERRCODE (10 R31). -/
  errCode : ErrCode
  /-- `ERRINFO[7:0]` (10 R32). -/
  errInfo : BitVec 8
  /-- IRQ_EN, all 32 bits stored (10 R33). -/
  irqEn : Word
  /-- ROWPOS, the number of bands complete (10 R28). -/
  rowPos : Word
  /-- Memory (20 R60). -/
  mem : Memory
  /-- The jobs whose footprints are engine-owned, newest first (20 R72). While BUSY the first one is the running
  job. -/
  owned : List OwnedJob
  /-- The model's own: the inputs still to come, in order. Assumption log 2. -/
  inputs : List Input
  /-- The model's own: what the last register read returned. Assumption log 11. -/
  readData : Word
  /-- The model's own: what the host's last memory read returned. Assumption log 11. -/
  memData : Byte
  /-- The model's own: how many free values have been used. Assumption log 6. -/
  freeIx : Nat
deriving DecidableEq, Repr

/-- Stops that mark a state no run from reset reaches (assumption log 13). -/
inductive Fault where
  /-- Raised by a band step when BUSY is 1 and the descriptor would not pass the checks of START: the descriptor
  cannot change while BUSY (10 R23), so no run from reset raises it. Safe: the model stops. -/
  | jobInvalid
  /-- Raised by a band step when BUSY is 1 and ROWPOS is not below NBANDS, which 10 R28 excludes. Safe: the model
  stops. -/
  | rowPosPastEnd
deriving DecidableEq, Repr

/-- Refusals: no meaning. -/
inductive Refusal where
  /-- Raised by `exec` alone, for an instruction that has no meaning yet. Safe: the model stops. -/
  | notModelled (mnemonic : String)
  /-- Raised by `step` on a register access that is narrower than 32 bits, misaligned or outside offsets 0x00 to
  0x7C: 10 R20 puts it outside the spec and says that a model refuses it. Safe: the model stops.
  Assumption log 14. -/
  | portAccess
deriving DecidableEq, Repr

/-- Every descriptor register 0 (10 R40). -/
def Desc.zero : Desc :=
  ⟨0, 0, 0, 0, 0, 0, 0, 0, 0, 0, 0, 0, 0, 0, 0, 0, 0, 0, 0, 0, 0, 0, 0⟩

/-- The machine right after hardware reset, as built with the default parameters (10 R40, 70 R330), with no input to
come. -/
def State.reset : State where
  cfg := Config.default
  desc := Desc.zero
  busy := false
  done := false
  err := false
  errCode := .none
  errInfo := 0
  irqEn := 0
  rowPos := 0
  mem := []
  owned := []
  inputs := []
  readData := 0
  memData := 0
  freeIx := 0

end Sys2Proof.Machine
end

