-- ==== Sys2Proof/Machine/Memory.lean ====
section
/-! DEFINITION. Memory: one byte, little-endian elements (spec/20_memory.md R60 to R63), and a list of element stores
performed in order. -/

namespace Sys2Proof.Machine

/-- The memory has 2^32 bytes (20 R60). -/
def addrLimit : Nat := 2 ^ 32

/-- What a byte nothing has written reads as. DESIGN CHOICE, unsafe: the spec says only that memory is ordinary
memory (20 R69) that reset does not change (10 R40). Assumption log 1. -/
def unlistedByte : Byte := 0

/-- Every entry is above `lo`, below 2^32 and not what an unlisted byte reads as, and the addresses rise. -/
def Memory.wfFrom : Nat → Memory → Bool
  | _, [] => true
  | lo, (k, c) :: rest => decide (lo ≤ k) && decide (k < addrLimit) && c != unlistedByte && Memory.wfFrom (k + 1) rest

/-- The canonical form: addresses strictly rising, all below 2^32, no entry equal to what an unlisted address reads
as. -/
def Memory.wf (m : Memory) : Bool := Memory.wfFrom 0 m

/-- The byte at address `a`. -/
def Memory.getByte : Memory → Nat → Byte
  | [], _ => unlistedByte
  | (k, c) :: rest, a => if k = a then c else Memory.getByte rest a

/-- Put an entry into a rising list, or take it out where the byte is what an unlisted address reads as. -/
def Memory.insert (a : Nat) (b : Byte) : Memory → Memory
  | [] => if b = unlistedByte then [] else [(a, b)]
  | (k, c) :: rest =>
    if a < k then (if b = unlistedByte then (k, c) :: rest else (a, b) :: (k, c) :: rest)
    else if a = k then (if b = unlistedByte then rest else (a, b) :: rest)
    else (k, c) :: Memory.insert a b rest

/-- Write one byte. There is no byte at or above 2^32 (20 R60) and nothing is written there; no access of an accepted
job reaches it (20 R62), and a host address has 32 bits. -/
def Memory.setByte (m : Memory) (a : Nat) (b : Byte) : Memory :=
  if a < addrLimit then Memory.insert a b m else m

/-- `MemRead(addr, n)`: little-endian (20 R62). -/
def Memory.read (m : Memory) (a : Nat) : Nat → Nat
  | 0 => 0
  | n + 1 => (m.getByte a).toNat + 256 * Memory.read m (a + 1) n

/-- `MemWrite(addr, n, v)`: the low `8n` bits of `v`, little-endian (20 R62). -/
def Memory.write (m : Memory) (a : Nat) : Nat → Nat → Memory
  | 0, _ => m
  | n + 1, v => Memory.write (m.setByte a (BitVec.ofNat 8 v)) (a + 1) n (v / 256)

/-- The place of one element: its address and its size in bytes. -/
structure Elem where
  addr : Nat
  size : Nat
deriving DecidableEq, Repr

/-- One element store: `MemWrite(addr, size, val)`. -/
structure Store where
  elem : Elem
  val : Nat
deriving DecidableEq, Repr

/-- The bytes an element occupies. -/
def Elem.bytes (e : Elem) : List Nat := List.range' e.addr e.size

/-- Whether byte `a` belongs to the element. -/
def Elem.covers (e : Elem) (a : Nat) : Prop := e.addr ≤ a ∧ a < e.addr + e.size

/-- Perform element stores in order. -/
def Memory.applyStores : List Store → Memory → Memory
  | [], m => m
  | st :: rest, m => Memory.applyStores rest (m.write st.elem.addr st.elem.size st.val)

end Sys2Proof.Machine
end

