-- ==== Sys2Proof/Machine/Geometry.lean ====
section
/-! DEFINITION. The chroma subsampler's geometry and the plane addresses (spec/41_plane_layout.md R160 to R168). -/

namespace Sys2Proof.Machine

/-- The value of `SY_410` (00 R8). -/
def sy410Value : Sy410 → Nat
  | .two => 2
  | .four => 4

/-- The factors `(sx, sy)` of a subsampling (41 R161). 4:0:0 has no chroma; its 1 serves for banding. -/
def subsFactors (cfg : Config) : Subs → Nat × Nat
  | .s444 => (1, 1)
  | .s422 => (2, 1)
  | .s420 => (2, 2)
  | .s411 => (4, 1)
  | .s410 => (4, sy410Value cfg.sy410)
  | .s400 => (1, 1)

/-- `es(n)` of the job. -/
def Job.es (job : Job) : Nat := job.depth.es

/-- Whether the job has chroma samples at all (41 R162). -/
def Job.hasChroma (job : Job) : Bool := job.subs != .s400

/-- `CW = ceil_div(W, sx)` (41 R162). -/
def Job.cw (job : Job) : Nat := ceilDiv job.w job.sx

/-- `CH = ceil_div(H, sy)` (41 R162). -/
def Job.ch (job : Job) : Nat := ceilDiv job.h job.sy

/-- `NBANDS` (41 R163, 44 R255): `ceil_div(H, sy)`, which is `H` for format S. -/
def Job.nbands (job : Job) : Nat := ceilDiv job.h job.sy

/-- `bh = min(sy, H - j*sy)`: how many luma rows band `j` has (41 R163, R164). -/
def Job.bandHeight (job : Job) (j : Nat) : Nat := min job.sy (job.h - j * job.sy)

/-- `bw = min(sx, W - cx*sx)`: how many luma columns chroma column `cx` covers (41 R164). -/
def Job.blockWidth (job : Job) (cx : Nat) : Nat := min job.sx (job.w - cx * job.sx)

/-- The luma rows of band `j` (41 R163). -/
def Job.bandRows (job : Job) (j : Nat) : List Nat := List.range' (j * job.sy) (job.bandHeight j)

/-- `Blk(cx, cy)`: the luma positions that exist under a chroma sample (41 R164). -/
def Job.block (job : Job) (cx cy : Nat) : List (Nat × Nat) :=
  (job.bandRows cy).flatMap fun y => (List.range' (cx * job.sx) (job.blockWidth cx)).map fun x => (x, y)

/-- Luma sample `(x, y)` (41 R165). -/
def Job.lumaElem (job : Job) (x y : Nat) : Elem := ⟨job.yPtr + y * job.yStride + x * job.es, job.es⟩

/-- `addrU(cx, cy)` (41 R167). -/
def Job.uElem (job : Job) (cx cy : Nat) : Elem :=
  match job.arr with
  | .p3 => ⟨job.uPtr + cy * job.uStride + cx * job.es, job.es⟩
  | .spuv => ⟨job.uPtr + cy * job.uStride + 2 * cx * job.es, job.es⟩
  | .spvu => ⟨job.uPtr + cy * job.uStride + (2 * cx + 1) * job.es, job.es⟩

/-- `addrV(cx, cy)` (41 R167). -/
def Job.vElem (job : Job) (cx cy : Nat) : Elem :=
  match job.arr with
  | .p3 => ⟨job.vPtr + cy * job.vStride + cx * job.es, job.es⟩
  | .spuv => ⟨job.uPtr + cy * job.uStride + (2 * cx + 1) * job.es, job.es⟩
  | .spvu => ⟨job.uPtr + cy * job.uStride + 2 * cx * job.es, job.es⟩

/-- The sample stored at an element, zero-extended (44 R267). -/
def Memory.sample (m : Memory) (e : Elem) : Nat := m.read e.addr e.size

end Sys2Proof.Machine
end

