-- ==== Sys2Proof/Machine/ColorModel.lean ====
section
/-! DEFINITION. The colour-matrix multiplier (spec/40_color_model.md R130 to R138) and the box average of the
chroma subsampler (spec/41_plane_layout.md R170). All arithmetic is on unbounded integers (40 R138). -/

namespace Sys2Proof.Machine

/-- `YOFF(n, RANGE)` (40 R133). -/
def yoff (n : Nat) : YuvRange → Nat
  | .tv => 16 * 2 ^ (n - 8)
  | .pc => 0

/-- `CBIAS(n)` (40 R133). -/
def cbias (n : Nat) : Nat := 2 ^ (n - 1)

/-- From accumulator to sample: add half a unit, shift right arithmetically (40 R136). -/
def roundAcc (acc : Int) : Int := asr (acc + 32768) 16

/-- Row 0, 1 or 2 of the matrix times three components (40 R131). -/
def dot (a b c : Int) (x y z : Int) : Int := a * x + b * y + c * z

/-- `accY` (40 R134). -/
def accY (m : Coeffs) (r g b : Nat) : Int := dot m.m0 m.m1 m.m2 r g b

/-- `accU` (40 R134). -/
def accU (m : Coeffs) (r g b : Nat) : Int := dot m.m3 m.m4 m.m5 r g b

/-- `accV` (40 R134). -/
def accV (m : Coeffs) (r g b : Nat) : Int := dot m.m6 m.m7 m.m8 r g b

/-- `Y` of one pixel (40 R134). -/
def forwardY (m : Coeffs) (range : YuvRange) (n : Nat) (r g b : Nat) : Nat :=
  clampSample (roundAcc (accY m r g b + (yoff n range : Int) * 65536)) n

/-- One chroma sample from the sum of the `k` unrounded accumulators of its block (41 R170). -/
def decimate (sum : Int) (k n : Nat) : Nat :=
  clampSample ((sum + (k : Int) * ((cbias n : Int) * 65536 + 32768)) / ((k : Int) * 65536)) n

/-- `(R, G, B)` of one pixel from the stored samples (40 R135). -/
def inverse (m : Coeffs) (range : YuvRange) (n : Nat) (y u v : Nat) : Nat × Nat × Nat :=
  let y' : Int := (y : Int) - (yoff n range : Int)
  let u' : Int := (u : Int) - (cbias n : Int)
  let v' : Int := (v : Int) - (cbias n : Int)
  (clampSample (roundAcc (dot m.m0 m.m1 m.m2 y' u' v')) n,
   clampSample (roundAcc (dot m.m3 m.m4 m.m5 y' u' v')) n,
   clampSample (roundAcc (dot m.m6 m.m7 m.m8 y' u' v')) n)

end Sys2Proof.Machine
end

