-- ==== Sys2Proof/Machine/Flags.lean ====
section
/-! DEFINITION. The status register, the interrupt line and the acknowledge (spec/10_state.md R30, R33;
spec/60_exceptions.md R303, R306). -/

namespace Sys2Proof.Machine

/-- STATUS as a read returns it: bit 0 BUSY, bit 1 DONE, bit 2 ERR, bits [31:3] 0 (10 R30). -/
def State.statusWord (s : State) : Word :=
  BitVec.ofNat 32 (s.busy.toNat + 2 * s.done.toNat + 4 * s.err.toNat)

/-- The interrupt output, a level (60 R303). -/
def State.irq (s : State) : Bool := (s.done && s.irqEn.getLsbD 0) || (s.err && s.irqEn.getLsbD 1)

/-- A host write of `v` to STATUS: writing 1 to bit 1 or 2 clears DONE or ERR; nothing else changes (10 R30,
60 R306). -/
def ackStatus (v : Word) (s : State) : State :=
  { s with done := s.done && !v.getLsbD 1, err := s.err && !v.getLsbD 2 }

/-- Step 1 of a START: DONE, ERR and ROWPOS are cleared (60 R293). -/
def startClear (s : State) : State := { s with done := false, err := false, rowPos := 0 }

end Sys2Proof.Machine
end

