-- ==== Sys2Proof/WellFormed.lean ====
section
/-! DEFINITION. Which instruction terms have an encoding (spec/30_encoding.md R97): ROT must be 0 when MODEL is
linear. Every other field of the syntax is as wide as its encoding, so no other check is needed. -/

namespace Sys2Proof

/-- ROT is an illegal encoding unless MODEL is the lifting family (30 R97). -/
def rotOk (model : ColorModel) (rot : BitVec 2) : Bool := model == .lifting || rot == 0

/-- The terms that some CTRL word encodes. -/
def Instr.wellFormed : Instr → Bool
  | .enc model rot _ _ => rotOk model rot
  | .dec model rot _ _ => rotOk model rot
  | .widenD => true
  | .widen10 => true
  | .widen12 => true
  | .widen16 => true
  | .narrowD => true
  | .narrow10 => true
  | .narrow12 => true
  | .narrow16 => true
  | .perm => true
  | .u2h => true
  | .h2u => true

end Sys2Proof
end

