-- ==== Sys2Proof/Decode.lean ====
section
/-! DEFINITION. Decoding of the opcode word CTRL and of the format word FMT (spec/30_encoding.md R92 to R107), total
and rejecting by name, and the encoders beside them. The causes of rejection are the illegal encodings of
30 R106; every one of CTRL becomes E_OP with ERRINFO 0x08 and every one of FMT E_OP with ERRINFO 0x0C
(spec/60_exceptions.md R294), except the two that depend on the operation, which Machine/Operands.lean checks. -/

namespace Sys2Proof

/-- Why a CTRL word names no job (60 R294, the CTRL causes). -/
inductive CtrlError where
  /-- OP is 0 or 8..15. -/
  | illegalOp
  /-- A reserved bit of CTRL is 1 (30 R98). -/
  | reservedBit
  /-- FIXD is not 0 and OP is neither WIDEN nor NARROW (30 R94). -/
  | fixdNotAllowed
  /-- ROT is not 0 and MODEL is 0 (30 R97). -/
  | rotWithoutLifting
  /-- MODEL, RANGE or TF is not 0 in format S (30 R91). -/
  | formatCField
deriving DecidableEq, Repr

/-- Why an FMT word is illegal for every operation (60 R294, the FMT causes). -/
inductive FmtError where
  /-- A reserved bit of FMT is 1 (30 R100). -/
  | reservedBit
  /-- SURF_A is 0 or 9..15. -/
  | illegalSurfA
  /-- SURF_B is 9..15. -/
  | illegalSurfB
  /-- SUBS is 6 or 7. -/
  | illegalSubs
  /-- ARR is 3. -/
  | illegalArr
deriving DecidableEq, Repr

/-- The reserved fields of CTRL: bits [7:6], [11], [15:13] and [31:20] (30 R92). -/
def ctrlReservedClear (w : Word) : Bool :=
  field w 6 2 == 0 && field w 11 1 == 0 && field w 13 3 == 0 && field w 20 12 == 0

/-- `CTRL.MODEL` (30 R97). -/
def decodeModel (n : Nat) : ColorModel := if n = 0 then .linear else .lifting

/-- `CTRL.RANGE` (30 R96). -/
def decodeRange (n : Nat) : YuvRange := if n = 0 then .tv else .pc

/-- A format C word: FIXD must be 0, and ROT must be 0 when MODEL is 0 (30 R91, R94, R97). -/
def decodeC (mk : ColorModel → BitVec 2 → YuvRange → BitVec 4 → Instr) (w : Word) : Except CtrlError Instr :=
  if field w 4 2 ≠ 0 then .error .fixdNotAllowed
  else if field w 9 2 ≠ 0 ∧ field w 8 1 = 0 then .error .rotWithoutLifting
  else .ok (mk (decodeModel (field w 8 1)) (BitVec.ofNat 2 (field w 9 2)) (decodeRange (field w 12 1))
    (BitVec.ofNat 4 (field w 16 4)))

/-- A format S word that names `i`: MODEL, ROT, RANGE and TF must be 0 (30 R91). -/
def decodeS (i : Instr) (w : Word) : Except CtrlError Instr :=
  if field w 8 1 ≠ 0 ∨ field w 12 1 ≠ 0 ∨ field w 16 4 ≠ 0 then .error .formatCField
  else if field w 9 2 ≠ 0 then .error .rotWithoutLifting
  else .ok i

/-- A format S word of an operation without fixed-depth variants: FIXD must be 0 (30 R94). -/
def decodePlainS (i : Instr) (w : Word) : Except CtrlError Instr :=
  if field w 4 2 ≠ 0 then .error .fixdNotAllowed else decodeS i w

/-- The variant FIXD selects (30 R94). -/
def byFixd (d f10 f12 f16 : Instr) : Nat → Instr
  | 0 => d
  | 1 => f10
  | 2 => f12
  | _ => f16

/-- The job a CTRL word names (30 R92 to R99, R107). -/
def decode (w : Word) : Except CtrlError Instr :=
  if ctrlReservedClear w = false then .error .reservedBit
  else
    match field w 0 4 with
    | 1 => decodeC .enc w
    | 2 => decodeC .dec w
    | 3 => decodeS (byFixd .widenD .widen10 .widen12 .widen16 (field w 4 2)) w
    | 4 => decodeS (byFixd .narrowD .narrow10 .narrow12 .narrow16 (field w 4 2)) w
    | 5 => decodePlainS .perm w
    | 6 => decodePlainS .u2h w
    | 7 => decodePlainS .h2u w
    | _ => .error .illegalOp

/-- The code of MODEL (30 R97). -/
def ColorModel.code : ColorModel → Nat
  | .linear => 0
  | .lifting => 1

/-- The code of RANGE (30 R96). -/
def YuvRange.code : YuvRange → Nat
  | .tv => 0
  | .pc => 1

/-- A format C word from its fields (30 R92). -/
def encodeC (op : Nat) (model : ColorModel) (rot : BitVec 2) (range : YuvRange) (tf : BitVec 4) : Word :=
  BitVec.ofNat 32 (op + 256 * model.code + 512 * rot.toNat + 4096 * range.code + 65536 * tf.toNat)

/-- The CTRL word of an instruction (30 R92, R107). -/
def encode : Instr → Word
  | .enc model rot range tf => encodeC 1 model rot range tf
  | .dec model rot range tf => encodeC 2 model rot range tf
  | .widenD => 0x03
  | .widen10 => 0x13
  | .widen12 => 0x23
  | .widen16 => 0x33
  | .narrowD => 0x04
  | .narrow10 => 0x14
  | .narrow12 => 0x24
  | .narrow16 => 0x34
  | .perm => 0x05
  | .u2h => 0x06
  | .h2u => 0x07

/-- The row of the opcode table that CTRL names, for the host: an instruction of the table is the CTRL word alone,
32 bits at most, so a number with a higher bit set is none (log 3). -/
def decodeTableWord (nbits w : Nat) : Option Instr :=
  if w < 2 ^ nbits ∧ w < 2 ^ 32 then
    match decode (BitVec.ofNat 32 w) with
    | .ok i => some i
    | .error _ => none
  else none

/-- The surface codes 1 to 8 (30 R101). -/
def decodeSurf : Nat → Option Surf
  | 1 => some .rgb
  | 2 => some .bgr
  | 3 => some .rgba
  | 4 => some .bgra
  | 5 => some .argb
  | 6 => some .abgr
  | 7 => some .rgba1010102
  | 8 => some .gray
  | _ => none

/-- The code of a surface (30 R101). -/
def Surf.code : Surf → Nat
  | .rgb => 1
  | .bgr => 2
  | .rgba => 3
  | .bgra => 4
  | .argb => 5
  | .abgr => 6
  | .rgba1010102 => 7
  | .gray => 8

/-- The code of SURF_B, 0 for no surface (30 R101). -/
def surfBCode : Option Surf → Nat
  | none => 0
  | some s => s.code

/-- The subsampling codes (30 R103). -/
def decodeSubs : Nat → Option Subs
  | 0 => some .s444
  | 1 => some .s422
  | 2 => some .s420
  | 3 => some .s411
  | 4 => some .s410
  | 5 => some .s400
  | _ => none

/-- The code of a subsampling (30 R103). -/
def Subs.code : Subs → Nat
  | .s444 => 0
  | .s422 => 1
  | .s420 => 2
  | .s411 => 3
  | .s410 => 4
  | .s400 => 5

/-- The arrangement codes (30 R104). -/
def decodeArr : Nat → Option Arr
  | 0 => some .p3
  | 1 => some .spuv
  | 2 => some .spvu
  | _ => none

/-- The code of an arrangement (30 R104). -/
def Arr.code : Arr → Nat
  | .p3 => 0
  | .spuv => 1
  | .spvu => 2

/-- The reserved fields of FMT: bits [15:13], [19] and [31:22] (30 R100). -/
def fmtReservedClear (w : Word) : Bool :=
  field w 13 3 == 0 && field w 19 1 == 0 && field w 22 10 == 0

/-- SURF_B: code 0 is no surface, 9..15 are illegal (30 R101). -/
def decodeSurfB (n : Nat) : Except FmtError (Option Surf) :=
  if n = 0 then .ok none
  else
    match decodeSurf n with
    | some s => .ok (some s)
    | none => .error .illegalSurfB

/-- The format word, as far as its legality does not depend on the operation (30 R100 to R104). -/
def decodeFmt (w : Word) : Except FmtError Fmt :=
  if fmtReservedClear w = false then .error .reservedBit
  else
    match decodeSurf (field w 0 4) with
    | none => .error .illegalSurfA
    | some a =>
      match decodeSurfB (field w 4 4) with
      | .error e => .error e
      | .ok b =>
        match decodeSubs (field w 16 3) with
        | none => .error .illegalSubs
        | some s =>
          match decodeArr (field w 20 2) with
          | none => .error .illegalArr
          | some r => .ok ⟨a, b, BitVec.ofNat 5 (field w 8 5), s, r⟩

/-- The FMT word of a format (30 R100). -/
def encodeFmt (f : Fmt) : Word :=
  BitVec.ofNat 32 (f.surfA.code + 16 * surfBCode f.surfB + 256 * f.bits.toNat + 65536 * f.subs.code
    + 1048576 * f.arr.code)

/-- The byte offset of a descriptor register (10 R21). -/
def DescReg.offset : DescReg → Nat
  | .ctrl => 0x08
  | .fmt => 0x0C
  | .width => 0x10
  | .height => 0x14
  | .aPtr => 0x18
  | .aStride => 0x1C
  | .bPtr => 0x20
  | .bStride => 0x24
  | .yPtr => 0x28
  | .yStride => 0x2C
  | .uPtr => 0x30
  | .uStride => 0x34
  | .vPtr => 0x38
  | .vStride => 0x3C
  | .m0 => 0x40
  | .m1 => 0x44
  | .m2 => 0x48
  | .m3 => 0x4C
  | .m4 => 0x50
  | .m5 => 0x54
  | .m6 => 0x58
  | .m7 => 0x5C
  | .m8 => 0x60

/-- The byte offset of a register from the block's base (10 R21). -/
def Reg.offset : Reg → Nat
  | .id => 0x00
  | .cap => 0x04
  | .desc r => r.offset
  | .start => 0x64
  | .status => 0x68
  | .errCode => 0x6C
  | .errInfo => 0x70
  | .irqEn => 0x74
  | .rowPos => 0x78
  | .sreset => 0x7C

/-- The 32 registers in the order of their offsets (10 R21). -/
def Reg.all : List Reg :=
  [.id, .cap, .desc .ctrl, .desc .fmt, .desc .width, .desc .height,
   .desc .aPtr, .desc .aStride, .desc .bPtr, .desc .bStride, .desc .yPtr, .desc .yStride,
   .desc .uPtr, .desc .uStride, .desc .vPtr, .desc .vStride,
   .desc .m0, .desc .m1, .desc .m2, .desc .m3, .desc .m4, .desc .m5, .desc .m6, .desc .m7, .desc .m8,
   .start, .status, .errCode, .errInfo, .irqEn, .rowPos, .sreset]

/-- The register a port access of `size` bytes at byte offset `off` names: only aligned 32-bit accesses inside the
block name one (10 R20). -/
def Reg.ofAccess (off size : Nat) : Option Reg :=
  if size = 4 ∧ off % 4 = 0 then Reg.all[off / 4]? else none

/-- The number in `ERRCODE[3:0]` (60 R291). -/
def ErrCode.code : ErrCode → BitVec 4
  | .none => 0
  | .op => 1
  | .bits => 2
  | .unsup => 3
  | .dim => 4
  | .null => 5
  | .align => 6
  | .stride => 7
  | .range => 8
  | .overlap => 9

end Sys2Proof
end

