-- ==== Sys2Proof/Machine/Surface.lean ====
section
/-! DEFINITION. Pixel surfaces: the channels of a layout, `unpack`, `pack` and the alpha policy
(spec/43_pixel_surface.md R220 to R225). -/

namespace Sys2Proof

/-- The channels of a layout in the order of its name, lowest address first (43 R220). -/
def Surf.channels : Surf → List Chan
  | .rgb => [.r, .g, .b]
  | .bgr => [.b, .g, .r]
  | .rgba => [.r, .g, .b, .a]
  | .bgra => [.b, .g, .r, .a]
  | .argb => [.a, .r, .g, .b]
  | .abgr => [.a, .b, .g, .r]
  | .rgba1010102 => [.r, .g, .b, .a]
  | .gray => [.l]

/-- `channels(SURF)` (43 R221). -/
def Surf.count (f : Surf) : Nat := f.channels.length

/-- Whether the layout has an alpha channel. -/
def Surf.hasAlpha (f : Surf) : Bool := f.channels.contains .a

/-- `bpp(SURF, es)`, bytes per pixel (43 R221). -/
def Surf.bpp (f : Surf) (es : Nat) : Nat := if f = .rgba1010102 then 4 else f.count * es

end Sys2Proof

namespace Sys2Proof.Machine

/-- A surface of a job (43 R220): layout, element size, pointer and stride. -/
structure SurfRef where
  surf : Surf
  es : Nat
  ptr : Nat
  stride : Nat
deriving DecidableEq, Repr

/-- A value for each named channel of one pixel (43 R222); the channels a surface does not have are 0 and are not
read. -/
structure Px where
  r : Nat := 0
  g : Nat := 0
  b : Nat := 0
  a : Nat := 0
  l : Nat := 0
deriving DecidableEq, Repr

/-- The value of a channel. -/
def Px.get (px : Px) : Chan → Nat
  | .r => px.r
  | .g => px.g
  | .b => px.b
  | .a => px.a
  | .l => px.l

/-- One function applied to every channel alike (42 R190). -/
def Px.map (f : Nat → Nat) (px : Px) : Px := ⟨f px.r, f px.g, f px.b, f px.a, f px.l⟩

/-- Element `i` of pixel `(x, y)` of an unpacked surface (44 R267). -/
def SurfRef.elem (p : SurfRef) (x y i : Nat) : Elem :=
  ⟨p.ptr + y * p.stride + (x * p.surf.count + i) * p.es, p.es⟩

/-- Pixel `(x, y)` of the packed surface (44 R267). -/
def SurfRef.word (p : SurfRef) (x y : Nat) : Elem := ⟨p.ptr + y * p.stride + 4 * x, 4⟩

/-- The elements of pixel `(x, y)`. -/
def SurfRef.pixelElems (p : SurfRef) (x y : Nat) : List Elem :=
  if p.surf = .rgba1010102 then [p.word x y] else (List.range p.surf.count).map (p.elem x y)

/-- Channel `c` of pixel `(x, y)` of an unpacked surface, 0 where the layout has no such channel. -/
def SurfRef.readChan (p : SurfRef) (m : Memory) (x y : Nat) (c : Chan) : Nat :=
  if p.surf.channels.contains c then m.sample (p.elem x y (p.surf.channels.idxOf c)) else 0

/-- The fields of a packed word: R `[9:0]`, G `[19:10]`, B `[29:20]`, A `[31:30]` (43 R222, R224). -/
def unpackWord (w : Nat) : Px :=
  { r := w % 1024, g := w / 1024 % 1024, b := w / 1048576 % 1024, a := w / 1073741824 % 4 }

/-- The packed word of a pixel, every field masked to its width (43 R223). -/
def packWord (px : Px) : Nat :=
  (px.r &&& 0x3FF) ||| ((px.g &&& 0x3FF) <<< 10) ||| ((px.b &&& 0x3FF) <<< 20) ||| ((px.a &&& 3) <<< 30)

/-- `unpack` (43 R222): elements as they are stored, not masked to the depth. -/
def SurfRef.unpack (p : SurfRef) (m : Memory) (x y : Nat) : Px :=
  if p.surf = .rgba1010102 then unpackWord (m.sample (p.word x y))
  else
    { r := p.readChan m x y .r, g := p.readChan m x y .g, b := p.readChan m x y .b, a := p.readChan m x y .a,
      l := p.readChan m x y .l }

/-- `pack` (43 R223), as the list of its element stores. -/
def SurfRef.pack (p : SurfRef) (x y : Nat) (px : Px) : List Store :=
  if p.surf = .rgba1010102 then [⟨p.word x y, packWord px⟩]
  else p.surf.channels.zipIdx.map fun ci => ⟨p.elem x y ci.2, px.get ci.1⟩

/-- `amax(SURF, n)`, the alpha of an opaque pixel (43 R225). -/
def amax (f : Surf) (n : Nat) : Nat := if f = .rgba1010102 then 3 else maxv n

/-- The element size of surface A per operation (60 R295). -/
def Job.esA (job : Job) : Nat :=
  match job.kind with
  | .enc => job.es
  | .dec => job.es
  | .widen => 1
  | .narrow => 2
  | .perm => job.es
  | .u2h => job.es
  | .h2u => 2

/-- The element size of surface B per operation (60 R295); format C has none. -/
def Job.esB (job : Job) : Nat :=
  match job.kind with
  | .enc => job.es
  | .dec => job.es
  | .widen => 2
  | .narrow => 1
  | .perm => job.es
  | .u2h => 2
  | .h2u => job.es

/-- Surface A of a job. -/
def Job.refA (job : Job) : SurfRef := ⟨job.surfA, job.esA, job.aPtr, job.aStride⟩

/-- Surface B of a format S job. -/
def Job.refB (job : Job) : SurfRef := ⟨job.surfB, job.esB, job.bPtr, job.bStride⟩

end Sys2Proof.Machine
end

