-- ==== Sys2Proof/Machine/Operands.lean ====
section
/-! DEFINITION. The operands of a job and the checks of START (spec/60_exceptions.md R293 to R305): which planes the
job uses (60 R295), and the descriptor resolved into the job's parameters or refused with the first failing check.
All arithmetic is on unbounded numbers (60 R293). -/

namespace Sys2Proof

/-- The operation of an instruction (30 R93). -/
def Instr.kind : Instr → Machine.JobKind
  | .enc _ _ _ _ => .enc
  | .dec _ _ _ _ => .dec
  | .widenD => .widen
  | .widen10 => .widen
  | .widen12 => .widen
  | .widen16 => .widen
  | .narrowD => .narrow
  | .narrow10 => .narrow
  | .narrow12 => .narrow
  | .narrow16 => .narrow
  | .perm => .perm
  | .u2h => .u2h
  | .h2u => .h2u

/-- The depth a fixed variant carries in its opcode word (30 R94); `none` takes it from FMT.BITS. -/
def Instr.fixedDepth : Instr → Option Depth
  | .enc _ _ _ _ => none
  | .dec _ _ _ _ => none
  | .widenD => none
  | .widen10 => some .d10
  | .widen12 => some .d12
  | .widen16 => some .d16
  | .narrowD => none
  | .narrow10 => some .d10
  | .narrow12 => some .d12
  | .narrow16 => some .d16
  | .perm => none
  | .u2h => none
  | .h2u => none

/-- `CTRL.RANGE` of a format C job (30 R96); format S has none, and its 0 is TV. -/
def Instr.range : Instr → YuvRange
  | .enc _ _ range _ => range
  | .dec _ _ range _ => range
  | .widenD => .tv
  | .widen10 => .tv
  | .widen12 => .tv
  | .widen16 => .tv
  | .narrowD => .tv
  | .narrow10 => .tv
  | .narrow12 => .tv
  | .narrow16 => .tv
  | .perm => .tv
  | .u2h => .tv
  | .h2u => .tv

/-- The CTRL causes of E_UNSUP (60 R296): the lifting model, or a transfer function other than linear. -/
def Instr.ctrlUnsupported : Instr → Bool
  | .enc model _ _ tf => model == .lifting || tf != 0
  | .dec model _ _ tf => model == .lifting || tf != 0
  | .widenD => false
  | .widen10 => false
  | .widen12 => false
  | .widen16 => false
  | .narrowD => false
  | .narrow10 => false
  | .narrow12 => false
  | .narrow16 => false
  | .perm => false
  | .u2h => false
  | .h2u => false

end Sys2Proof

namespace Sys2Proof.Machine

/-- What a refusal reports: the code and the register at fault (60 R291). -/
structure Refused where
  code : ErrCode
  reg : Reg
deriving DecidableEq, Repr

/-- Whether the operation has format C (30 R91). -/
def JobKind.isC : JobKind → Bool
  | .enc => true
  | .dec => true
  | .widen => false
  | .narrow => false
  | .perm => false
  | .u2h => false
  | .h2u => false

/-- The FMT causes of E_OP that depend on the format (60 R294): format C has no surface B; format S has one, and
its SUBS and ARR are 0. -/
def fmtShapeOk (k : JobKind) (f : Fmt) : Bool :=
  if k.isC then f.surfB == none else f.surfB != none && f.subs == .s444 && f.arr == .p3

/-- The effective depth (30 R95). -/
def effectiveDepth (i : Instr) (f : Fmt) : Option Depth :=
  match i.fixedDepth with
  | some d => some d
  | none => Depth.ofBits f.bits.toNat

/-- The packed surface exists at 10 bits only (60 R296). -/
def packedDepthBad (s : Surf) (d : Depth) : Bool := s == .rgba1010102 && d != .d10

/-- The FMT causes of E_UNSUP (60 R296), for surfaces A and B, depth, subsampling and arrangement. For format C
`b` is not looked at. -/
def fmtUnsupported (k : JobKind) (a b : Surf) (d : Depth) (subs : Subs) (arr : Arr) : Bool :=
  let cBad := a == .gray || packedDepthBad a d || (subs == .s400 && arr != .p3)
  let sameLayoutBad := b != a || a == .rgba1010102
  match k with
  | .enc => cBad
  | .dec => cBad
  | .widen => d == .d8 || sameLayoutBad
  | .narrow => d == .d8 || sameLayoutBad
  | .u2h => sameLayoutBad
  | .h2u => sameLayoutBad
  | .perm =>
    a == .gray || b == .gray || packedDepthBad a d || packedDepthBad b d
      || (a == .rgba1010102 && b != .rgba1010102 && b.hasAlpha)
      || (b == .rgba1010102 && a != .rgba1010102 && a.hasAlpha)

/-- The nine coefficients as signed numbers (40 R131). -/
def Desc.coeffs (d : Desc) : Coeffs :=
  ⟨d.m0.toInt, d.m1.toInt, d.m2.toInt, d.m3.toInt, d.m4.toInt, d.m5.toInt, d.m6.toInt, d.m7.toInt, d.m8.toInt⟩

/-- The job's parameters, once the encoding checks have passed. -/
def makeJob (i : Instr) (cfg : Config) (d : Desc) (f : Fmt) (n : Depth) : Job where
  kind := i.kind
  range := i.range
  depth := n
  surfA := f.surfA
  surfB := f.surfB.getD f.surfA
  subs := f.subs
  arr := f.arr
  sx := (subsFactors cfg f.subs).1
  sy := (subsFactors cfg f.subs).2
  w := d.width.toNat
  h := d.height.toNat
  aPtr := d.aPtr.toNat
  aStride := d.aStride.toNat
  bPtr := d.bPtr.toNat
  bStride := d.bStride.toNat
  yPtr := d.yPtr.toNat
  yStride := d.yStride.toNat
  uPtr := d.uPtr.toNat
  uStride := d.uStride.toNat
  vPtr := d.vPtr.toNat
  vStride := d.vStride.toNat
  mat := d.coeffs
  rnd := cfg.narrowRnd

/-- Checks a to c of 60 R293, those about the encoding: E_OP for FMT (CTRL's are `decode`'s), E_BITS, E_UNSUP. -/
def decodeJob (i : Instr) (cfg : Config) (d : Desc) : Except Refused Job :=
  match decodeFmt d.fmt with
  | .error _ => .error ⟨.op, .desc .fmt⟩
  | .ok f =>
    if fmtShapeOk i.kind f = false then .error ⟨.op, .desc .fmt⟩
    else
      match effectiveDepth i f with
      | none => .error ⟨.bits, .desc .fmt⟩
      | some n =>
        if i.ctrlUnsupported then .error ⟨.unsup, .desc .ctrl⟩
        else if fmtUnsupported i.kind f.surfA (f.surfB.getD f.surfA) n f.subs f.arr then
          .error ⟨.unsup, .desc .fmt⟩
        else .ok (makeJob i cfg d f n)

/-- One plane of a job (60 R295): its registers, its role, its values, alignment, row length and row count. -/
structure Plane where
  ptrReg : DescReg
  strideReg : DescReg
  isDest : Bool
  ptr : Nat
  stride : Nat
  align : Nat
  rowBytes : Nat
  rows : Nat
deriving DecidableEq, Repr

/-- The alignment of a surface (60 R295): 4 for the packed surface, else its element size. -/
def SurfRef.align (p : SurfRef) : Nat := if p.surf = .rgba1010102 then 4 else p.es

/-- The plane of surface A. -/
def Job.planeA (job : Job) (isDest : Bool) : Plane :=
  ⟨.aPtr, .aStride, isDest, job.aPtr, job.aStride, job.refA.align, job.w * job.surfA.bpp job.esA, job.h⟩

/-- The plane of surface B, the destination of format S. -/
def Job.planeB (job : Job) : Plane :=
  ⟨.bPtr, .bStride, true, job.bPtr, job.bStride, job.refB.align, job.w * job.surfB.bpp job.esB, job.h⟩

/-- The luma plane. -/
def Job.planeY (job : Job) (isDest : Bool) : Plane :=
  ⟨.yPtr, .yStride, isDest, job.yPtr, job.yStride, job.es, job.w * job.es, job.h⟩

/-- The U plane, or the chroma-pair plane of a semi-planar arrangement (41 R166). -/
def Job.planeU (job : Job) (isDest : Bool) : Plane :=
  ⟨.uPtr, .uStride, isDest, job.uPtr, job.uStride, job.es,
    (if job.arr = .p3 then job.cw * job.es else 2 * job.cw * job.es), job.ch⟩

/-- The V plane of a three-plane arrangement. -/
def Job.planeV (job : Job) (isDest : Bool) : Plane :=
  ⟨.vPtr, .vStride, isDest, job.vPtr, job.vStride, job.es, job.cw * job.es, job.ch⟩

/-- The chroma planes the job uses (41 R166): none for 4:0:0, one when semi-planar, else two. -/
def Job.chromaPlanes (job : Job) (isDest : Bool) : List Plane :=
  if job.hasChroma then
    if job.arr = .p3 then [job.planeU isDest, job.planeV isDest] else [job.planeU isDest]
  else []

/-- The planes of the job in the order A, B, Y, U, V (60 R295). -/
def Job.planes (job : Job) : List Plane :=
  match job.kind with
  | .enc => job.planeA false :: job.planeY true :: job.chromaPlanes true
  | .dec => job.planeA true :: job.planeY false :: job.chromaPlanes false
  | .widen => [job.planeA false, job.planeB]
  | .narrow => [job.planeA false, job.planeB]
  | .perm => [job.planeA false, job.planeB]
  | .u2h => [job.planeA false, job.planeB]
  | .h2u => [job.planeA false, job.planeB]

/-- The end of a plane's footprint, one past its last byte (20 R67). -/
def Plane.hi (p : Plane) : Nat := p.ptr + p.stride * (p.rows - 1) + p.rowBytes

/-- Whether byte `a` lies in the plane's footprint (20 R67). -/
def Plane.contains (p : Plane) (a : Nat) : Bool := decide (p.ptr ≤ a) && decide (a < p.hi)

/-- Whether two footprints intersect (60 R305). -/
def Plane.meets (p q : Plane) : Bool := decide (p.ptr < q.hi) && decide (q.ptr < p.hi)

/-- E_DIM (60 R297): WIDTH before HEIGHT. -/
def dimCheck (cfg : Config) (job : Job) : Option Refused :=
  if job.w = 0 ∨ cfg.maxDim.toNat < job.w then some ⟨.dim, .desc .width⟩
  else if job.h = 0 ∨ cfg.maxDim.toNat < job.h then some ⟨.dim, .desc .height⟩
  else none

/-- E_NULL for one plane (60 R302). -/
def nullCheck (p : Plane) : Option Refused := if p.ptr = 0 then some ⟨.null, .desc p.ptrReg⟩ else none

/-- E_ALIGN for one plane: the pointer before the stride (60 R298). -/
def alignCheck (p : Plane) : Option Refused :=
  if p.ptr % p.align ≠ 0 then some ⟨.align, .desc p.ptrReg⟩
  else if p.stride % p.align ≠ 0 then some ⟨.align, .desc p.strideReg⟩
  else none

/-- E_STRIDE for one plane (60 R304). -/
def strideCheck (p : Plane) : Option Refused :=
  if p.stride < p.rowBytes then some ⟨.stride, .desc p.strideReg⟩ else none

/-- E_RANGE for one plane (60 R299). -/
def rangeCheck (p : Plane) : Option Refused :=
  if addrLimit < p.hi then some ⟨.range, .desc p.ptrReg⟩ else none

/-- E_ALIAS for one plane among all of the job's: a destination that meets another plane (60 R305). -/
def overlapCheck (all : List Plane) (p : Plane) : Option Refused :=
  if p.isDest && all.any (fun q => q.ptrReg != p.ptrReg && p.meets q) then some ⟨.overlap, .desc p.ptrReg⟩ else none

/-- The first answer of a list of checks. -/
def firstOf : List (Option Refused) → Option Refused
  | [] => none
  | some r :: _ => some r
  | none :: rest => firstOf rest

/-- Checks d to i of 60 R293: each class is completed for all planes before the next. -/
def checkJob (cfg : Config) (job : Job) : Option Refused :=
  firstOf [dimCheck cfg job, firstOf (job.planes.map nullCheck), firstOf (job.planes.map alignCheck),
    firstOf (job.planes.map strideCheck), firstOf (job.planes.map rangeCheck),
    firstOf (job.planes.map (overlapCheck job.planes))]

/-- The descriptor under instruction `i`: the job, or the first failing check (60 R293). -/
def resolve (i : Instr) (cfg : Config) (d : Desc) : Except Refused Job :=
  match decodeJob i cfg d with
  | .error r => .error r
  | .ok job =>
    match checkJob cfg job with
    | some r => .error r
    | none => .ok job

/-- The job the registers describe, CTRL included. -/
def currentJob (cfg : Config) (d : Desc) : Except Refused Job :=
  match decode d.ctrl with
  | .error _ => .error ⟨.op, .desc .ctrl⟩
  | .ok i => resolve i cfg d

/-- The elements of a row of a surface. -/
def SurfRef.rowElems (p : SurfRef) (w y : Nat) : List Elem := (List.range w).flatMap fun x => p.pixelElems x y

/-- The destination elements of band `j` (the writes of 44 R252, R253, R254). -/
def Job.bandElems (job : Job) (j : Nat) : List Elem :=
  let luma := (job.bandRows j).flatMap fun y => (List.range job.w).map fun x => job.lumaElem x y
  let chroma := if job.hasChroma then (List.range job.cw).flatMap fun cx => [job.uElem cx j, job.vElem cx j] else []
  match job.kind with
  | .enc => luma ++ chroma
  | .dec => (job.bandRows j).flatMap fun y => job.refA.rowElems job.w y
  | .widen => job.refB.rowElems job.w j
  | .narrow => job.refB.rowElems job.w j
  | .perm => job.refB.rowElems job.w j
  | .u2h => job.refB.rowElems job.w j
  | .h2u => job.refB.rowElems job.w j

/-- Every destination element of the job, band by band (20 R68). -/
def Job.destElems (job : Job) : List Elem := (List.range job.nbands).flatMap job.bandElems

/-- Whether byte `a` lies in a footprint of the job (20 R72). -/
def Job.owns (job : Job) (a : Nat) : Bool := job.planes.any fun p => p.contains a

/-- Whether byte `a` lies in a destination footprint of the job (20 R72). -/
def Job.ownsDest (job : Job) (a : Nat) : Bool := job.planes.any fun p => p.isDest && p.contains a

end Sys2Proof.Machine
end

