-- ==== Sys2Proof/Machine/Ops.lean ====
section
/-! DEFINITION. The shared operations of every instruction: refusing a START (the block's exception entry,
spec/60_exceptions.md R300), accepting it (spec/44_conversion_kernel.md R250), the band step (44 R251), and what the
spec calls *any value* (spec/93_implementation_defined.md U6, U8). The counterpart of a return from the exception is
the acknowledge, `ackStatus` in Machine/Flags.lean (60 R306). -/

namespace Sys2Proof.Machine

/-- `raise E_xxx(info)` (60 R300): ERRCODE, ERRINFO and ERR are set; DONE, BUSY and ROWPOS stay 0, as step 1 of the
START left them. -/
def raiseRefusal (r : Refused) (s : State) : State :=
  { s with errCode := r.code, errInfo := BitVec.ofNat 8 r.reg.offset, err := true }

/-- The launch of an accepted job (44 R250). Its footprints become engine-owned (20 R72). -/
def acceptJob (job : Job) (s : State) : State :=
  { s with
    busy := true
    done := false
    err := false
    errCode := .none
    errInfo := 0
    rowPos := 0
    owned := ⟨job, false⟩ :: s.owned }

/-- A START that launches instruction `i` while BUSY is 0 (60 R293): clear the flags, check, then refuse or accept. -/
def launch (i : Instr) (s : State) : State :=
  match resolve i s.cfg s.desc with
  | .error r => raiseRefusal r (startClear s)
  | .ok job => acceptJob job (startClear s)

/-- A START of a CTRL word that names no job: E_OP with ERRINFO 0x08 (60 R294). -/
def launchIllegal (s : State) : State := raiseRefusal ⟨.op, .desc .ctrl⟩ (startClear s)

/-- Free values in the given bytes of memory: *any value* (93 U6, U8). -/
def havocBytes : List Nat → State → State
  | [], s => s
  | a :: rest, s =>
    havocBytes rest { s with mem := s.mem.setByte a (Config.freeByte s.freeIx), freeIx := s.freeIx + 1 }

/-- Free values in the given elements. -/
def havocElems (es : List Elem) (s : State) : State := havocBytes (es.flatMap Elem.bytes) s

/-- Whether the host has broken the ownership protocol for the running job (93 U6). -/
def State.runningTainted (s : State) : Bool :=
  match s.owned with
  | [] => false
  | o :: _ => o.tainted

/-- The end of band step `j` of a job (44 R251): ROWPOS moves on, and the last band clears BUSY and sets DONE. -/
def finishBand (job : Job) (s : State) : State :=
  if s.rowPos.toNat + 1 = job.nbands then
    { s with rowPos := s.rowPos + 1, busy := false, done := true }
  else { s with rowPos := s.rowPos + 1 }

/-- The memory writes of one band, computed from memory as it stands when the band begins (20 R74, 93 U9; assumption
log 12). Of a job whose owned bytes the host wrote, every destination element is any value (93 U6). -/
def writeBand (stores : List Store) (elems : List Elem) (s : State) : State :=
  if s.runningTainted then havocElems elems s else { s with mem := Memory.applyStores stores s.mem }

/-- The band step of instruction `i` (44 R251), where `band` gives the element stores of a band. -/
def bandStep (i : Instr) (band : Job → Memory → Nat → List Store) (s : State) : Host.Outcome State Fault Refusal :=
  match resolve i s.cfg s.desc with
  | .error _ => .fault .jobInvalid
  | .ok job =>
    if s.rowPos.toNat < job.nbands then
      .next (finishBand job (writeBand (band job s.mem s.rowPos.toNat) (job.bandElems s.rowPos.toNat) s))
    else .fault .rowPosPastEnd

/-- What the engine does next for the job that CTRL names as `i`: at a START, with BUSY 0, it launches it; with BUSY 1
it performs the next band (44 R250, R251). Assumption log 3. -/
def runJob (i : Instr) (band : Job → Memory → Nat → List Store) (s : State) : Host.Outcome State Fault Refusal :=
  if s.busy then bandStep i band s else .next (launch i s)

/-- The band of a format S job (44 R254): row `j`, one function from the pixel of surface A to that of surface B. -/
def rowBand (f : Job → Px → Px) (job : Job) (m : Memory) (j : Nat) : List Store :=
  (List.range job.w).flatMap fun x => job.refB.pack x j (f job (job.refA.unpack m x j))

/-- Put free values into every destination element of a job. -/
def havocJob (job : Job) (s : State) : State := havocElems job.destElems s

/-- A job abandoned by reset: if one is running, its destination elements hold any value (44 R265, 70 R332,
93 U8). -/
def abandonJob (s : State) : State :=
  if s.busy then
    match currentJob s.cfg s.desc with
    | .ok job => havocJob job s
    | .error _ => s
  else s

/-- Every register at its reset value (10 R40), the engine idle and no job owning memory. Memory, the build parameters
and the outside world are not the block's registers and stay (10 R40, R41). -/
def resetRegs (s : State) : State :=
  { s with
    desc := Desc.zero
    busy := false
    done := false
    err := false
    errCode := .none
    errInfo := 0
    irqEn := 0
    rowPos := 0
    owned := [] }

/-- Reset, by the pin or by SRESET (70 R330, R332). -/
def resetBlock (s : State) : State := resetRegs (abandonJob s)

end Sys2Proof.Machine
end

