-- ==== Sys2Proof/Machine/Convert.lean ====
section
/-! DEFINITION. ENC and DEC (spec/44_conversion_kernel.md R252, R253): the colour matrix, the chroma subsampler and
the plane interleaver together. -/

namespace Sys2Proof.Machine

/-- The sum of an accumulator over the pixels of a chroma block (41 R170). -/
def blockSum (acc : Coeffs → Nat → Nat → Nat → Int) (job : Job) (m : Memory) (cx cy : Nat) : Int :=
  ((job.block cx cy).map fun p =>
    let px := job.refA.unpack m p.1 p.2
    acc job.mat px.r px.g px.b).sum

/-- `cnt(cx, cy) = bw * bh` (41 R164). -/
def Job.blockCount (job : Job) (cx cy : Nat) : Nat := job.blockWidth cx * job.bandHeight cy

/-- The U sample of a block (41 R170). -/
def encU (job : Job) (m : Memory) (cx cy : Nat) : Nat :=
  decimate (blockSum accU job m cx cy) (job.blockCount cx cy) job.depth.bits

/-- The V sample of a block (41 R170). -/
def encV (job : Job) (m : Memory) (cx cy : Nat) : Nat :=
  decimate (blockSum accV job m cx cy) (job.blockCount cx cy) job.depth.bits

/-- The luma sample of pixel `(x, y)` (40 R134). -/
def encY (job : Job) (m : Memory) (x y : Nat) : Nat :=
  let px := job.refA.unpack m x y
  forwardY job.mat job.range job.depth.bits px.r px.g px.b

/-- Band `j` of ENC (44 R252). With 4:0:0 there is luma only (41 R172). -/
def encBand (job : Job) (m : Memory) (j : Nat) : List Store :=
  ((job.bandRows j).flatMap fun y => (List.range job.w).map fun x => ⟨job.lumaElem x y, encY job m x y⟩) ++
  (if job.hasChroma then
    (List.range job.cw).flatMap fun cx =>
      [⟨job.uElem cx j, encU job m cx j⟩, ⟨job.vElem cx j, encV job m cx j⟩]
   else [])

/-- The U sample that covers luma column `x` in band `j`; neutral for 4:0:0 (41 R173, R174). -/
def decU (job : Job) (m : Memory) (x j : Nat) : Nat :=
  if job.hasChroma then m.sample (job.uElem (x / job.sx) j) else cbias job.depth.bits

/-- The V sample that covers luma column `x` in band `j`; neutral for 4:0:0 (41 R173, R174). -/
def decV (job : Job) (m : Memory) (x j : Nat) : Nat :=
  if job.hasChroma then m.sample (job.vElem (x / job.sx) j) else cbias job.depth.bits

/-- The pixel DEC writes at `(x, y)` of band `j`, alpha opaque (44 R253, 43 R226). -/
def decPixel (job : Job) (m : Memory) (x y j : Nat) : Px :=
  let rgb := inverse job.mat job.range job.depth.bits (m.sample (job.lumaElem x y)) (decU job m x j) (decV job m x j)
  { r := rgb.1, g := rgb.2.1, b := rgb.2.2, a := amax job.surfA job.depth.bits }

/-- Band `j` of DEC (44 R253). -/
def decBand (job : Job) (m : Memory) (j : Nat) : List Store :=
  (job.bandRows j).flatMap fun y =>
    (List.range job.w).flatMap fun x => job.refA.pack x y (decPixel job m x y j)

/-- ENC (44 R252). -/
def execEnc (model : ColorModel) (rot : BitVec 2) (range : YuvRange) (tf : BitVec 4) (s : State) :
    Host.Outcome State Fault Refusal :=
  runJob (.enc model rot range tf) encBand s

/-- DEC (44 R253). -/
def execDec (model : ColorModel) (rot : BitVec 2) (range : YuvRange) (tf : BitVec 4) (s : State) :
    Host.Outcome State Fault Refusal :=
  runJob (.dec model rot range tf) decBand s

end Sys2Proof.Machine
end

