-- ==== Sys2Proof/Machine/BitDepth.lean ====
section
/-! DEFINITION. The per-element functions of the bit-depth converter (spec/42_bit_depth.md R191, R196, R203 to
R206). -/

namespace Sys2Proof.Machine

/-- `widen(v, n)`: bit replication (42 R191). -/
def widen (v n : Nat) : Nat := (v <<< (n - 8)) ||| (v >>> (16 - n))

/-- `narrow(v, n)`: rounding by `NARROW_RND`, then clamped to `[0, 255]` (42 R196). -/
def narrow (rm : NarrowRnd) (v n : Nat) : Nat :=
  match rm with
  | .halfUp => min ((v + 2 ^ (n - 8 - 1)) >>> (n - 8)) 255
  | .trunc => min (v >>> (n - 8)) 255

/-- `RNE16(p / d)`: the binary16 pattern nearest to the exact quotient, ties to even, subnormals kept (42 R205), for
`d > 0`. Below `2^-14` the pattern is the rounded multiple of `2^-24`. Otherwise `e` is `E + 14`, where `2^E` is the
largest power of two not above the quotient: the floor of `(p / d) * 2^14` has the same one. -/
def rne16 (p d : Nat) : Nat :=
  if p * 2 ^ 14 < d then roundHalfEven (p * 2 ^ 24) d
  else
    let e := Nat.log2 (p * 2 ^ 14 / d)
    let r := roundHalfEven (p * 2 ^ 24) (d * 2 ^ e)
    if r = 2048 then (e + 2) * 1024 else (e + 1) * 1024 + (r - 1024)

/-- U2H on one element: `RNE16(v / (2^n - 1))` (42 R204). -/
def u2h (v n : Nat) : Nat := rne16 v (maxv n)

/-- The sign bit of a binary16 pattern (42 R203). -/
def halfSign (h : Nat) : Nat := h / 32768 % 2

/-- The biased exponent (42 R203). -/
def halfExp (h : Nat) : Nat := h / 1024 % 32

/-- The fraction (42 R203). -/
def halfFrac (h : Nat) : Nat := h % 1024

/-- The magnitude of a finite pattern in units of `2^-25`: `(1024 + f) * 2^e`, or `f * 2` for a subnormal
(42 R203). -/
def halfMagnitude (h : Nat) : Nat :=
  if halfExp h = 0 then halfFrac h * 2 else (1024 + halfFrac h) * 2 ^ halfExp h

/-- H2U on one element (42 R206): NaN, negatives and zeros give 0, plus infinity gives `maxv(n)`, and any other value
is scaled, rounded to nearest with ties up, and clamped. -/
def h2u (h n : Nat) : Nat :=
  if halfExp h = 31 ∧ halfFrac h ≠ 0 then 0
  else if halfSign h = 1 then 0
  else if halfExp h = 31 then maxv n
  else min ((halfMagnitude h * maxv n + 2 ^ 24) / 2 ^ 25) (maxv n)

end Sys2Proof.Machine
end

