-- ==== Sys2Proof/Machine/HalfFloat.lean ====
section
/-! DEFINITION. U2H and H2U (spec/42_bit_depth.md R203 to R206): integer surfaces to and from binary16, every element
alike. -/

namespace Sys2Proof.Machine

/-- A row of U2H (44 R254). -/
def u2hBand : Job → Memory → Nat → List Store :=
  rowBand fun job px => px.map fun v => u2h v job.depth.bits

/-- A row of H2U (44 R254). -/
def h2uBand : Job → Memory → Nat → List Store :=
  rowBand fun job px => px.map fun v => h2u v job.depth.bits

/-- U2H (42 R204). -/
def execU2h (s : State) : Host.Outcome State Fault Refusal := runJob .u2h u2hBand s

/-- H2U (42 R206). -/
def execH2u (s : State) : Host.Outcome State Fault Refusal := runJob .h2u h2uBand s

end Sys2Proof.Machine
end

