-- ==== Sys2Proof/Machine/Narrow.lean ====
section
/-! DEFINITION. NARROW.D, NARROW.10, NARROW.12 and NARROW.16 (spec/42_bit_depth.md R196 to R200): every element of
every pixel, rounded by `NARROW_RND` and clamped to 255. -/

namespace Sys2Proof.Machine

/-- A row of NARROW (44 R254). -/
def narrowBand : Job → Memory → Nat → List Store :=
  rowBand fun job px => px.map fun v => narrow job.rnd v job.depth.bits

/-- NARROW.D, depth from FMT.BITS (42 R197). -/
def execNarrowD (s : State) : Host.Outcome State Fault Refusal := runJob .narrowD narrowBand s

/-- NARROW.10 (42 R198). -/
def execNarrow10 (s : State) : Host.Outcome State Fault Refusal := runJob .narrow10 narrowBand s

/-- NARROW.12 (42 R199). -/
def execNarrow12 (s : State) : Host.Outcome State Fault Refusal := runJob .narrow12 narrowBand s

/-- NARROW.16 (42 R200). -/
def execNarrow16 (s : State) : Host.Outcome State Fault Refusal := runJob .narrow16 narrowBand s

end Sys2Proof.Machine
end

