-- ==== Sys2Proof/Machine/Perm.lean ====
section
/-! DEFINITION. PERM (spec/43_pixel_surface.md R229 to R231): channel reorder, promotion, demotion, and packing and
unpacking of the 10-10-10-2 word. -/

namespace Sys2Proof.Machine

/-- The pixel PERM writes: the source's, with an opaque alpha where only surface B has one (43 R230). A channel that
surface B lacks is not written by `pack`. -/
def permPixel (job : Job) (px : Px) : Px :=
  if job.surfB.hasAlpha && !job.surfA.hasAlpha then { px with a := amax job.surfB job.depth.bits } else px

/-- A row of PERM (44 R254). -/
def permBand : Job → Memory → Nat → List Store := rowBand permPixel

/-- PERM (43 R230). -/
def execPerm (s : State) : Host.Outcome State Fault Refusal := runJob .perm permBand s

end Sys2Proof.Machine
end

