-- ==== Sys2Proof/Machine/Widen.lean ====
section
/-! DEFINITION. WIDEN.D, WIDEN.10, WIDEN.12 and WIDEN.16 (spec/42_bit_depth.md R192 to R195): every element of every
pixel, alpha included, by bit replication (42 R190, R191). -/

namespace Sys2Proof.Machine

/-- A row of WIDEN (44 R254). -/
def widenBand : Job → Memory → Nat → List Store :=
  rowBand fun job px => px.map fun v => widen v job.depth.bits

/-- WIDEN.D, depth from FMT.BITS (42 R192). -/
def execWidenD (s : State) : Host.Outcome State Fault Refusal := runJob .widenD widenBand s

/-- WIDEN.10 (42 R193). -/
def execWiden10 (s : State) : Host.Outcome State Fault Refusal := runJob .widen10 widenBand s

/-- WIDEN.12 (42 R194). -/
def execWiden12 (s : State) : Host.Outcome State Fault Refusal := runJob .widen12 widenBand s

/-- WIDEN.16 (42 R195). -/
def execWiden16 (s : State) : Host.Outcome State Fault Refusal := runJob .widen16 widenBand s

end Sys2Proof.Machine
end

