-- ==== Sys2Proof/Machine/Dispatch.lean ====
section
/-! DEFINITION. One arm per instruction, each one call of its meaning. -/

namespace Sys2Proof.Machine

def exec (i : Instr) (s : State) : Host.Outcome State Fault Refusal :=
  match i with
  | .enc model rot range tf => Sys2Proof.Machine.execEnc model rot range tf s
  | .dec model rot range tf => Sys2Proof.Machine.execDec model rot range tf s
  | .widenD => Sys2Proof.Machine.execWidenD s
  | .widen10 => Sys2Proof.Machine.execWiden10 s
  | .widen12 => Sys2Proof.Machine.execWiden12 s
  | .widen16 => Sys2Proof.Machine.execWiden16 s
  | .narrowD => Sys2Proof.Machine.execNarrowD s
  | .narrow10 => Sys2Proof.Machine.execNarrow10 s
  | .narrow12 => Sys2Proof.Machine.execNarrow12 s
  | .narrow16 => Sys2Proof.Machine.execNarrow16 s
  | .perm => Sys2Proof.Machine.execPerm s
  | .u2h => Sys2Proof.Machine.execU2h s
  | .h2u => Sys2Proof.Machine.execH2u s

end Sys2Proof.Machine
end

