-- ==== Sys2Proof/Machine/Port.lean ====
section
/-! DEFINITION. The host's side of the block: the register port (spec/10_state.md R20 to R35, R41), the host's own
memory accesses under the ownership protocol (spec/20_memory.md R72, spec/93_implementation_defined.md U6), and the
input a step takes (spec/44_conversion_kernel.md R257). -/

namespace Sys2Proof.Machine

/-- A descriptor register. -/
def Desc.get (d : Desc) : DescReg → Word
  | .ctrl => d.ctrl
  | .fmt => d.fmt
  | .width => d.width
  | .height => d.height
  | .aPtr => d.aPtr
  | .aStride => d.aStride
  | .bPtr => d.bPtr
  | .bStride => d.bStride
  | .yPtr => d.yPtr
  | .yStride => d.yStride
  | .uPtr => d.uPtr
  | .uStride => d.uStride
  | .vPtr => d.vPtr
  | .vStride => d.vStride
  | .m0 => d.m0
  | .m1 => d.m1
  | .m2 => d.m2
  | .m3 => d.m3
  | .m4 => d.m4
  | .m5 => d.m5
  | .m6 => d.m6
  | .m7 => d.m7
  | .m8 => d.m8

/-- The descriptor with one register replaced: all 32 bits are stored (10 R26, R27). -/
def Desc.set (d : Desc) (r : DescReg) (v : Word) : Desc :=
  match r with
  | .ctrl => { d with ctrl := v }
  | .fmt => { d with fmt := v }
  | .width => { d with width := v }
  | .height => { d with height := v }
  | .aPtr => { d with aPtr := v }
  | .aStride => { d with aStride := v }
  | .bPtr => { d with bPtr := v }
  | .bStride => { d with bStride := v }
  | .yPtr => { d with yPtr := v }
  | .yStride => { d with yStride := v }
  | .uPtr => { d with uPtr := v }
  | .uStride => { d with uStride := v }
  | .vPtr => { d with vPtr := v }
  | .vStride => { d with vStride := v }
  | .m0 => { d with m0 := v }
  | .m1 => { d with m1 := v }
  | .m2 => { d with m2 := v }
  | .m3 => { d with m3 := v }
  | .m4 => { d with m4 := v }
  | .m5 => { d with m5 := v }
  | .m6 => { d with m6 := v }
  | .m7 => { d with m7 := v }
  | .m8 => { d with m8 := v }

/-- ID (10 R24). -/
def idWord : Word := 0x43434501

/-- `CAP.VBYTES = VLEN_BITS / 8` (10 R25). -/
def vbytes : VlenBits → Nat
  | .v128 => 16
  | .v256 => 32
  | .v512 => 64

/-- `LANES(es) = VLEN_BITS / (8 * es)`, the pixels of one datapath group (44 R260). No result depends on it
(44 R262): it is visible only as `CAP.VBYTES`. -/
def lanes (cfg : Config) (es : Nat) : Nat := vbytes cfg.vlen / es

/-- `CAP.NRND` (10 R25). -/
def nrndBit : NarrowRnd → Nat
  | .halfUp => 0
  | .trunc => 1

/-- CAP (10 R25): VBYTES, PREC = 16, HAS_F16 = 1, HAS_LIFT = 0, HAS_TF = 0, NRND, SY410. -/
def capWord (cfg : Config) : Word :=
  BitVec.ofNat 32 (vbytes cfg.vlen + 16 * 2 ^ 8 + 1 * 2 ^ 16 + nrndBit cfg.narrowRnd * 2 ^ 19
    + sy410Value cfg.sy410 * 2 ^ 20)

/-- What a read of a register returns (10 R21 to R35): the write-only registers read 0 (10 R41). -/
def readReg (s : State) : Reg → Word
  | .id => idWord
  | .cap => capWord s.cfg
  | .desc r => s.desc.get r
  | .start => 0
  | .status => s.statusWord
  | .errCode => s.errCode.code.setWidth 32
  | .errInfo => s.errInfo.setWidth 32
  | .irqEn => s.irqEn
  | .rowPos => s.rowPos
  | .sreset => 0

/-- A register read: no side effect on the registers (10 R41). A read of STATUS that returns DONE = 1 gives every
owned byte back to the host (20 R72; assumption log 7). -/
def hostRegRead (r : Reg) (s : State) : State :=
  { s with
    readData := readReg s r
    owned := if r = .status ∧ s.done = true then [] else s.owned }

/-- A register write other than a START that launches (10 R21, R23, R41): a descriptor register is written only
while not BUSY; read-only registers ignore the write; STATUS acknowledges; SRESET with bit 0 resets. -/
def hostRegWrite (r : Reg) (v : Word) (s : State) : State :=
  match r with
  | .desc d => if s.busy then s else { s with desc := s.desc.set d v }
  | .status => ackStatus v s
  | .irqEn => { s with irqEn := v }
  | .sreset => if v.getLsbD 0 then resetBlock s else s
  | .id => s
  | .cap => s
  | .start => s
  | .errCode => s
  | .errInfo => s
  | .rowPos => s

/-- Whether a register write is a START that launches: bit 0 is 1 and BUSY is 0 (10 R29). -/
def startsJob (r : Reg) (v : Word) (s : State) : Bool := r == .start && v.getLsbD 0 && !s.busy

/-- The protocol is broken for one job if the host wrote one of its owned bytes: its destination elements become any
value, now and in the bands to come (93 U6; assumption log 8). -/
def breakOwnership (a : Nat) : List OwnedJob → State → List OwnedJob × State
  | [], s => ([], s)
  | o :: rest, s =>
    if o.job.owns a then
      let r := breakOwnership a rest (havocJob o.job s)
      (⟨o.job, true⟩ :: r.1, r.2)
    else
      let r := breakOwnership a rest s
      (o :: r.1, r.2)

/-- The host writes a byte of memory (20 R72). -/
def hostMemWrite (a : Word) (v : Byte) (s : State) : State :=
  let r := breakOwnership a.toNat s.owned { s with mem := s.mem.setByte a.toNat v }
  { r.2 with owned := r.1 }

/-- The host reads a byte of memory: any value where an owned job has it in a destination footprint (20 R72,
93 U6). -/
def hostMemRead (a : Word) (s : State) : State :=
  if s.owned.any fun o => o.job.ownsDest a.toNat then
    { s with memData := Config.freeByte s.freeIx, freeIx := s.freeIx + 1 }
  else { s with memData := s.mem.getByte a.toNat }

/-- What one step comes to, before any instruction runs. -/
inductive Turn where
  /-- The host or the platform acted; this is the state after. -/
  | settled (s : State)
  /-- The job that CTRL names gets its turn: a launch if BUSY is 0, a band if BUSY is 1. -/
  | job (s : State)
  /-- The register access is outside the spec (10 R20). -/
  | badAccess
deriving DecidableEq, Repr

/-- The engine's turn: a band step while BUSY; an idle engine does nothing (44 R251). -/
def engineTurn (s : State) : Turn := if s.busy then .job s else .settled s

/-- A register write that has reached the port. -/
def portWrite (r : Reg) (v : Word) (s : State) : Turn :=
  if startsJob r v s then .job s else .settled (hostRegWrite r v s)

/-- One input, the state being the one with that input taken off. -/
def takeInput (i : Input) (s : State) : Turn :=
  match i with
  | .regWrite off size v =>
    match Reg.ofAccess off size with
    | some r => portWrite r v s
    | none => .badAccess
  | .regRead off size =>
    match Reg.ofAccess off size with
    | some r => .settled (hostRegRead r s)
    | none => .badAccess
  | .memWrite a v => .settled (hostMemWrite a v s)
  | .memRead a => .settled (hostMemRead a s)
  | .engineTurn => engineTurn s
  | .hardReset => .settled (resetBlock s)

/-- Whose turn it is: the next input's, and the engine's when there is none, so that a busy engine always takes its
next step (44 R257; assumption log 2). -/
def nextTurn (s : State) : Turn :=
  match s.inputs with
  | [] => engineTurn s
  | i :: rest => takeInput i { s with inputs := rest }

/-- What a CTRL word that names no job does at its turn: a START of it is refused with E_OP (60 R294). While BUSY no
run reaches this (10 R23; assumption log 13). -/
def illegalTurn (s : State) : Host.Outcome State Fault Refusal :=
  if s.busy then .fault .jobInvalid else .next (launchIllegal s)

/-- The input that starts the job in the descriptor (10 R29). -/
def startInput : Input := .regWrite 0x64 4 1

end Sys2Proof.Machine
end

