-- ==== Sys2Proof/Machine/Step.lean ====
section
/-! DEFINITION. One step of the machine: one host access, one launch or one band step
(spec/44_conversion_kernel.md R250, R251, R257). -/

namespace Sys2Proof.Machine

/-- One step. -/
def step (s : State) : Host.Outcome State Fault Refusal :=
  match nextTurn s with
  | .settled t => .next t
  | .badAccess => .refused .portAccess
  | .job t =>
    match decode t.desc.ctrl with
    | .ok i => exec i t
    | .error _ => illegalTurn t

/-- The state whose next step runs the instruction with CTRL word `w`: the host has written it to CTRL, the engine is
idle, and the next input is the START write. `nbits` is at most the 32 bits of CTRL, which hold `w` whole
(log 4). -/
def State.withFetchWord (s : State) (_nbits w : Nat) : State :=
  { s with
    desc := { s.desc with ctrl := BitVec.ofNat 32 w }
    busy := false
    inputs := startInput :: s.inputs }

end Sys2Proof.Machine
end

