-- ==== Sys2Proof/Machine/HostMatrix.lean ====
section
/-! DEFINITION. How the host derives the nine coefficients from `(kr, kb, range, bits)`
(spec/40_color_model.md R140 to R143), with exact rationals and one rounding per coefficient, and the three presets
(spec/30_encoding.md R111). Normative for the host; no step of the block uses it. -/

namespace Sys2Proof.Machine

/-- The scales `(ys, cs)` of a range at depth `n` (40 R142). -/
def matrixScales (range : YuvRange) (n : Nat) : Rat × Rat :=
  match range with
  | .tv => (219 * (2 ^ (n - 8) : Nat) / (maxv n : Rat), 224 * (2 ^ (n - 8) : Nat) / (maxv n : Rat))
  | .pc => (1, 1)

/-- A rational in units of `2^-16`, rounded once (40 R140). -/
def coeff (q : Rat) : Int := rnd (q * 65536)

/-- The ENC coefficients (40 R140). DESIGN CHOICE, assumption log 21: any pair and any depth is taken, also a pair
outside `0 < kr`, `0 < kb`, `kr + kb < 1` (40 R143) or a depth that is not 8, 10, 12 or 16 (40 R142), for which the
spec states no value; where a divisor is zero there (`kr = 1`, `kb = 1`) Lean's quotient is 0. -/
def encCoeffs (kr kb : Rat) (range : YuvRange) (n : Nat) : Coeffs :=
  let kg := 1 - kr - kb
  let ys := (matrixScales range n).1
  let cs := (matrixScales range n).2
  { m0 := coeff (kr * ys), m1 := coeff (kg * ys), m2 := coeff (kb * ys),
    m3 := coeff (-kr / (2 * (1 - kb)) * cs), m4 := coeff (-kg / (2 * (1 - kb)) * cs), m5 := coeff (1 / 2 * cs),
    m6 := coeff (1 / 2 * cs), m7 := coeff (-kg / (2 * (1 - kr)) * cs), m8 := coeff (-kb / (2 * (1 - kr)) * cs) }

/-- The DEC coefficients (40 R141). DESIGN CHOICE, assumption log 21: any pair and any depth is taken, also those
outside 40 R143 and R142, for which the spec states no value; where a divisor is zero there (`kg = 0`) Lean's quotient
is 0. -/
def decCoeffs (kr kb : Rat) (range : YuvRange) (n : Nat) : Coeffs :=
  let kg := 1 - kr - kb
  let yi := 1 / (matrixScales range n).1
  let ci := 1 / (matrixScales range n).2
  { m0 := coeff yi, m1 := 0, m2 := coeff (2 * (1 - kr) * ci),
    m3 := coeff yi, m4 := coeff (-2 * (1 - kb) * kb / kg * ci), m5 := coeff (-2 * (1 - kr) * kr / kg * ci),
    m6 := coeff yi, m7 := coeff (2 * (1 - kb) * ci), m8 := 0 }

/-- The presets of 30 R111. -/
inductive Preset where
  | bt601 | bt709 | bt2020
deriving DecidableEq, Repr

/-- `kr` of a preset (30 R111). -/
def Preset.kr : Preset → Rat
  | .bt601 => 299 / 1000
  | .bt709 => 2126 / 10000
  | .bt2020 => 2627 / 10000

/-- `kb` of a preset (30 R111). -/
def Preset.kb : Preset → Rat
  | .bt601 => 114 / 1000
  | .bt709 => 722 / 10000
  | .bt2020 => 593 / 10000

end Sys2Proof.Machine
end

