-- ==== Sys2Proof/Machine/JobLine.lean ====
section
/-! DEFINITION. The job notation of spec/30_encoding.md R108 as a record, its pseudo-operands (30 R110, R111), and the
register writes a line stands for (30 R109). The notation is read here as its keys and values, not as text
(assumption log 18). -/

namespace Sys2Proof.Machine

/-- The layout names (30 R110). -/
inductive LayoutName where
  | i444 | i422 | i420 | i411 | i410 | i400 | nv12 | nv21 | nv16 | nv61 | nv24 | nv42
deriving DecidableEq, Repr

/-- `subs=` of a layout name (30 R110). -/
def LayoutName.subs : LayoutName → Subs
  | .i444 => .s444
  | .i422 => .s422
  | .i420 => .s420
  | .i411 => .s411
  | .i410 => .s410
  | .i400 => .s400
  | .nv12 => .s420
  | .nv21 => .s420
  | .nv16 => .s422
  | .nv61 => .s422
  | .nv24 => .s444
  | .nv42 => .s444

/-- `arr=` of a layout name (30 R110). -/
def LayoutName.arr : LayoutName → Arr
  | .i444 => .p3
  | .i422 => .p3
  | .i420 => .p3
  | .i411 => .p3
  | .i410 => .p3
  | .i400 => .p3
  | .nv12 => .spuv
  | .nv21 => .spvu
  | .nv16 => .spuv
  | .nv61 => .spvu
  | .nv24 => .spuv
  | .nv42 => .spvu

/-- The value of `m=` (30 R108, R111): nine integers, or a pair `(kr, kb)`. -/
inductive MatrixKey where
  | nine (c : Coeffs)
  | krkb (kr kb : Rat)
deriving DecidableEq, Repr

/-- `m=` with a preset name (30 R111). -/
def Preset.key (p : Preset) : MatrixKey := .krkb p.kr p.kb

/-- `@addr/stride` (30 R108). -/
structure PlaneKey where
  ptr : Word
  stride : Word
deriving DecidableEq, Repr

/-- `NAME@addr/stride` (30 R108). -/
structure SurfKey where
  surf : Surf
  ptr : Word
  stride : Word
deriving DecidableEq, Repr

/-- One line of the notation. `job` is the mnemonic with the keys `range=`, `model=` and `tf=`; an omitted key leaves
its field 0 (30 R108). -/
structure JobLine where
  job : Instr
  a : Option SurfKey := none
  b : Option SurfKey := none
  bits : BitVec 5 := 0
  subs : Subs := .s444
  arr : Arr := .p3
  w : Word := 0
  h : Word := 0
  y : Option PlaneKey := none
  u : Option PlaneKey := none
  v : Option PlaneKey := none
  m : Option MatrixKey := none
deriving DecidableEq, Repr

/-- The code of a surface key, 0 where it is omitted. -/
def surfKeyCode : Option SurfKey → Nat
  | none => 0
  | some k => k.surf.code

/-- The FMT word of a line (30 R100, R108). -/
def JobLine.fmtWord (l : JobLine) : Word :=
  BitVec.ofNat 32 (surfKeyCode l.a + 16 * surfKeyCode l.b + 256 * l.bits.toNat + 65536 * l.subs.code
    + 1048576 * l.arr.code)

/-- The nine coefficients of a matrix key for a job and a depth (30 R111). DESIGN CHOICE, assumption log 20: 30 R111
names the derivation of a pair for ENC and for DEC; on a line whose job is neither, the model takes the one for ENC. -/
def MatrixKey.coeffs (k : MatrixKey) (job : Instr) (bits : Nat) : Coeffs :=
  match k with
  | .nine c => c
  | .krkb kr kb => if job.kind = .dec then decCoeffs kr kb job.range bits else encCoeffs kr kb job.range bits

/-- The writes of M0..M8, two's complement (10 R35). -/
def Coeffs.writes (c : Coeffs) : List (DescReg × Word) :=
  [(.m0, BitVec.ofInt 32 c.m0), (.m1, BitVec.ofInt 32 c.m1), (.m2, BitVec.ofInt 32 c.m2),
   (.m3, BitVec.ofInt 32 c.m3), (.m4, BitVec.ofInt 32 c.m4), (.m5, BitVec.ofInt 32 c.m5),
   (.m6, BitVec.ofInt 32 c.m6), (.m7, BitVec.ofInt 32 c.m7), (.m8, BitVec.ofInt 32 c.m8)]

/-- The writes of a pointer and stride pair, if the line names it. -/
def planeWrites (p s : DescReg) : Option PlaneKey → List (DescReg × Word)
  | none => []
  | some k => [(p, k.ptr), (s, k.stride)]

/-- The writes of a surface's pointer and stride pair, if the line names it. -/
def surfWrites (p s : DescReg) : Option SurfKey → List (DescReg × Word)
  | none => []
  | some k => [(p, k.ptr), (s, k.stride)]

/-- The writes of the matrix, if the line names one. -/
def matrixWrites (job : Instr) (bits : Nat) : Option MatrixKey → List (DescReg × Word)
  | none => []
  | some k => (k.coeffs job bits).writes

/-- The descriptor writes a line stands for (30 R109): FMT, WIDTH, HEIGHT, the pointers and strides it names, M0..M8
if `m=` is present, and CTRL. -/
def JobLine.writes (l : JobLine) : List (DescReg × Word) :=
  [(.fmt, l.fmtWord), (.width, l.w), (.height, l.h)] ++ surfWrites .aPtr .aStride l.a ++ surfWrites .bPtr .bStride l.b
    ++ planeWrites .yPtr .yStride l.y ++ planeWrites .uPtr .uStride l.u ++ planeWrites .vPtr .vStride l.v
    ++ matrixWrites l.job l.bits.toNat l.m ++ [(.ctrl, encode l.job)]

/-- Descriptor writes as inputs of the register port. -/
def writeInputs (ws : List (DescReg × Word)) : List Input := ws.map fun p => .regWrite p.1.offset 4 p.2

/-- The read of STATUS by which the host polls (30 R109). -/
def pollInput : Input := .regRead 0x68 4

/-- What the host does to run a line: the descriptor writes, the START write, and `polls` reads of STATUS (30 R109).
-/
def JobLine.inputs (l : JobLine) (polls : Nat) : List Input :=
  writeInputs l.writes ++ startInput :: List.replicate polls pollInput

/-- A descriptor after a list of writes. -/
def Desc.applyWrites (d : Desc) (ws : List (DescReg × Word)) : Desc := ws.foldl (fun e p => e.set p.1 p.2) d

end Sys2Proof.Machine
end

