-- ==== Sys2Proof/Safety.lean ====
section
/-! DEFINITION. The terms in which claims about the CCE are made: the invariant of every run, the conditions under
which an instruction launches and under which a band runs, and the frames. -/

namespace Sys2Proof.Machine

/-- At most one of BUSY, DONE and ERR is 1 (10 R30). -/
abbrev FlagsExclusive (s : State) : Prop :=
  ¬(s.done = true ∧ s.err = true) ∧ (s.busy = true → s.done = false ∧ s.err = false)

/-- ERRCODE and ERRINFO are 0 together, ERR is set only with a code, and a job that was accepted left no code
(10 R31, R32). -/
abbrev ErrorRecordOk (s : State) : Prop :=
  (s.errCode = .none ↔ s.errInfo = 0) ∧ (s.err = true → s.errCode ≠ .none) ∧
  (s.busy = true ∨ s.done = true → s.errCode = .none)

/-- While BUSY, the registers describe a job that passes the checks of START, it is the newest owned job, and ROWPOS is
below NBANDS (10 R23, R28). -/
def JobUnderway (s : State) : Prop :=
  s.busy = true → ∃ job, currentJob s.cfg s.desc = .ok job ∧ s.rowPos.toNat < job.nbands ∧
    ∃ tainted rest, s.owned = ⟨job, tainted⟩ :: rest

/-- What holds in every state a run reaches. -/
structure Safe (s : State) : Prop where
  memWf : s.mem.wf = true
  flags : FlagsExclusive s
  record : ErrorRecordOk s
  underway : JobUnderway s

/-- Instruction `i` is about to be launched, and its descriptor passes every check of START (60 R293). -/
abbrev Ready (i : Instr) (s : State) (job : Job) : Prop :=
  s.busy = false ∧ resolve i s.cfg s.desc = .ok job

/-- A band of instruction `i` is about to run: BUSY is 1, the descriptor is a legal job, ROWPOS is below NBANDS, the
host has kept the ownership protocol, and memory is in canonical form. -/
abbrev Running (i : Instr) (s : State) (job : Job) : Prop :=
  s.busy = true ∧ resolve i s.cfg s.desc = .ok job ∧ s.rowPos.toNat < job.nbands ∧ s.runningTainted = false ∧
  s.mem.wf = true

/-- The registers after a band step (44 R251): ROWPOS is one more; the last band clears BUSY and sets DONE; every other
register and everything else but memory is as before. -/
def BandFrame (job : Job) (s t : State) : Prop :=
  t.rowPos = s.rowPos + 1 ∧
  (s.rowPos.toNat + 1 = job.nbands → t.busy = false ∧ t.done = true) ∧
  (s.rowPos.toNat + 1 ≠ job.nbands → t.busy = true ∧ t.done = s.done) ∧
  t.cfg = s.cfg ∧ t.desc = s.desc ∧ t.err = s.err ∧ t.errCode = s.errCode ∧ t.errInfo = s.errInfo ∧
  t.irqEn = s.irqEn ∧ t.owned = s.owned ∧ t.inputs = s.inputs ∧ t.readData = s.readData ∧
  t.memData = s.memData ∧ t.freeIx = s.freeIx

/-- Every byte outside the given elements reads as before. -/
def SameOutside (es : List Elem) (m m' : Memory) : Prop :=
  ∀ a, (∀ e ∈ es, ¬e.covers a) → m'.getByte a = m.getByte a

/-- Nothing but the four registers a START decides, ERRCODE, ERRINFO and ERR with DONE and ROWPOS cleared, has changed:
a refused START (60 R300). -/
def RefusedBy (code : ErrCode) (r : Reg) (s t : State) : Prop :=
  t = { s with
    errCode := code, errInfo := BitVec.ofNat 8 r.offset, err := true, done := false, rowPos := 0 }

/-- `p` is the first plane of the job, in the order A, B, Y, U, V, for which `bad` holds (60 R293). -/
def FirstPlane (bad : Plane → Prop) (job : Job) (p : Plane) : Prop :=
  ∃ before after, job.planes = before ++ p :: after ∧ bad p ∧ ∀ q ∈ before, ¬bad q

/-- The check gives no refusal for any plane of the job. -/
abbrev AllPass (check : Plane → Option Refused) (job : Job) : Prop := ∀ p ∈ job.planes, check p = none

/-- An element lies in memory and is naturally aligned (20 R62, R65). -/
def ElemOk (e : Elem) : Prop := (e.size = 1 ∨ e.size = 2 ∨ e.size = 4) ∧ e.addr + e.size ≤ 2 ^ 32 ∧ e.addr % e.size = 0

/-- The component `R`, `G`, `B` of pixel `(x, y)` of surface A in a three-term row of the matrix (40 R134). -/
def rowTimesPixel (a b c : Word) (job : Job) (m : Memory) (x y : Nat) : Int :=
  a.toInt * ((job.refA.unpack m x y).r : Int) + b.toInt * ((job.refA.unpack m x y).g : Int)
    + c.toInt * ((job.refA.unpack m x y).b : Int)

/-- Element `k` of every pixel of the band's row of surface B is `f` of element `k` of that pixel of surface A as it was,
nothing else in memory changes, and the registers are those after a band (44 R254). `f` is given the job for its depth
and its rounding. -/
def ElementwiseBand (i : Instr) (f : Job → Nat → Nat) : Prop :=
  ∀ (s : State) (job : Job), Running i s job →
    ∃ t, exec i s = .next t ∧
      (∀ x k, x < job.w → k < job.surfA.count →
        t.mem.sample (job.refB.elem x s.rowPos.toNat k) = f job (s.mem.sample (job.refA.elem x s.rowPos.toNat k))) ∧
      SameOutside (job.bandElems s.rowPos.toNat) s.mem t.mem ∧ BandFrame job s t

/-- `k` steps from `s` end in `t`, each of them a next state. -/
def Steps (k : Nat) (s t : State) : Prop := Host.Core.run Sys2Proof.core k s = .next t

/-! ### Tables of the spec, written out once more for the claims, apart from the definitions they are held against -/

/-- The operations of format C (30 R91); the others have format S. -/
def formatC : Instr → Bool
  | .enc _ _ _ _ => true
  | .dec _ _ _ _ => true
  | .widenD => false
  | .widen10 => false
  | .widen12 => false
  | .widen16 => false
  | .narrowD => false
  | .narrow10 => false
  | .narrow12 => false
  | .narrow16 => false
  | .perm => false
  | .u2h => false
  | .h2u => false

/-- The FMT causes of E_OP (60 R294), on the bits of FMT. -/
abbrev FmtIllegal (i : Instr) (w : Word) : Prop :=
  w &&& 0xFFC8E000 ≠ 0 ∨ field w 0 4 = 0 ∨ 9 ≤ field w 0 4 ∨ 9 ≤ field w 4 4 ∨ 6 ≤ field w 16 3 ∨ field w 20 2 = 3 ∨
  (formatC i = true ∧ field w 4 4 ≠ 0) ∨
  (formatC i = false ∧ (field w 4 4 = 0 ∨ field w 16 3 ≠ 0 ∨ field w 20 2 ≠ 0))

/-- The number of a surface code, 0 for none (30 R101). -/
def surfNumber : Option Surf → Nat
  | none => 0
  | some .rgb => 1
  | some .bgr => 2
  | some .rgba => 3
  | some .bgra => 4
  | some .argb => 5
  | some .abgr => 6
  | some .rgba1010102 => 7
  | some .gray => 8

/-- The fields of an FMT word, bit by bit (30 R100 to R104). -/
abbrev FmtHolds (w : Word) (a b : Option Surf) (bits : Nat) (subs : Subs) (arr : Arr) : Prop :=
  field w 0 4 = surfNumber a ∧ field w 4 4 = surfNumber b ∧ field w 8 5 = bits ∧
  field w 16 3 = (match subs with | .s444 => 0 | .s422 => 1 | .s420 => 2 | .s411 => 3 | .s410 => 4 | .s400 => 5) ∧
  field w 20 2 = (match arr with | .p3 => 0 | .spuv => 1 | .spvu => 2) ∧ w &&& 0xFFC8E000 = 0

/-- The format C fields of a CTRL word, bit by bit (30 R92, R96, R97, R99). -/
abbrev CtrlHolds (w : Word) (model : ColorModel) (rot : BitVec 2) (range : YuvRange) (tf : BitVec 4) : Prop :=
  field w 8 1 = (match model with | .linear => 0 | .lifting => 1) ∧ field w 9 2 = rot.toNat ∧
  field w 12 1 = (match range with | .tv => 0 | .pc => 1) ∧ field w 16 4 = tf.toNat ∧ w &&& 0xFFF0E8C0 = 0

/-- The subsampling and the arrangement that a layout name stands for (30 R110, which the spec marks as general
knowledge). -/
def layoutTable : LayoutName → Subs × Arr
  | .i444 => (.s444, .p3)
  | .i422 => (.s422, .p3)
  | .i420 => (.s420, .p3)
  | .i411 => (.s411, .p3)
  | .i410 => (.s410, .p3)
  | .i400 => (.s400, .p3)
  | .nv12 => (.s420, .spuv)
  | .nv21 => (.s420, .spvu)
  | .nv16 => (.s422, .spuv)
  | .nv61 => (.s422, .spvu)
  | .nv24 => (.s444, .spuv)
  | .nv42 => (.s444, .spvu)

/-- The effective depth of a job in bits (30 R94, R95). -/
def depthNumber (i : Instr) (f : Fmt) : Nat :=
  match i with
  | .widen10 => 10
  | .narrow10 => 10
  | .widen12 => 12
  | .narrow12 => 12
  | .widen16 => 16
  | .narrow16 => 16
  | .enc _ _ _ _ => f.bits.toNat
  | .dec _ _ _ _ => f.bits.toNat
  | .widenD => f.bits.toNat
  | .narrowD => f.bits.toNat
  | .perm => f.bits.toNat
  | .u2h => f.bits.toNat
  | .h2u => f.bits.toNat

/-- A CTRL cause of E_UNSUP (60 R296). -/
def CtrlUnsupportedRow : Instr → Prop
  | .enc model _ _ tf => model = .lifting ∨ tf ≠ 0
  | .dec model _ _ tf => model = .lifting ∨ tf ≠ 0
  | .widenD => False
  | .widen10 => False
  | .widen12 => False
  | .widen16 => False
  | .narrowD => False
  | .narrow10 => False
  | .narrow12 => False
  | .narrow16 => False
  | .perm => False
  | .u2h => False
  | .h2u => False

/-- The rows of 60 R296 for ENC and DEC. -/
abbrev ConversionRow (f : Fmt) (n : Depth) : Prop :=
  f.surfA = .gray ∨ (f.surfA = .rgba1010102 ∧ n ≠ .d10) ∨ (f.subs = .s400 ∧ f.arr ≠ .p3)

/-- The rows of 60 R296 for the operations that keep the layout. -/
abbrev SameLayoutRow (f : Fmt) : Prop := f.surfB ≠ some f.surfA ∨ f.surfA = .rgba1010102

/-- Layouts with four channels, the packed one apart. -/
abbrev FourChannels (s : Surf) : Prop := s = .rgba ∨ s = .bgra ∨ s = .argb ∨ s = .abgr

/-- The rows of 60 R296 for PERM. -/
abbrev PermRow (f : Fmt) (n : Depth) : Prop :=
  f.surfA = .gray ∨ f.surfB = some .gray ∨
  ((f.surfA = .rgba1010102 ∨ f.surfB = some .rgba1010102) ∧ n ≠ .d10) ∨
  (f.surfA = .rgba1010102 ∧ ∃ b, f.surfB = some b ∧ FourChannels b) ∨
  (f.surfB = some .rgba1010102 ∧ FourChannels f.surfA)

/-- An FMT cause of E_UNSUP: a row of the table of 60 R296. -/
def FmtUnsupportedRow (i : Instr) (f : Fmt) (n : Depth) : Prop :=
  match i with
  | .enc _ _ _ _ => ConversionRow f n
  | .dec _ _ _ _ => ConversionRow f n
  | .widenD => n = .d8 ∨ SameLayoutRow f
  | .widen10 => n = .d8 ∨ SameLayoutRow f
  | .widen12 => n = .d8 ∨ SameLayoutRow f
  | .widen16 => n = .d8 ∨ SameLayoutRow f
  | .narrowD => n = .d8 ∨ SameLayoutRow f
  | .narrow10 => n = .d8 ∨ SameLayoutRow f
  | .narrow12 => n = .d8 ∨ SameLayoutRow f
  | .narrow16 => n = .d8 ∨ SameLayoutRow f
  | .perm => PermRow f n
  | .u2h => SameLayoutRow f
  | .h2u => SameLayoutRow f

/-- The operation of each job (30 R93). -/
def operationOf : Instr → JobKind
  | .enc _ _ _ _ => .enc
  | .dec _ _ _ _ => .dec
  | .widenD => .widen
  | .widen10 => .widen
  | .widen12 => .widen
  | .widen16 => .widen
  | .narrowD => .narrow
  | .narrow10 => .narrow
  | .narrow12 => .narrow
  | .narrow16 => .narrow
  | .perm => .perm
  | .u2h => .u2h
  | .h2u => .h2u

/-- `CTRL.RANGE` of a job, 0 in format S (30 R91, R96). -/
def rangeOf : Instr → YuvRange
  | .enc _ _ range _ => range
  | .dec _ _ range _ => range
  | .widenD => .tv
  | .widen10 => .tv
  | .widen12 => .tv
  | .widen16 => .tv
  | .narrowD => .tv
  | .narrow10 => .tv
  | .narrow12 => .tv
  | .narrow16 => .tv
  | .perm => .tv
  | .u2h => .tv
  | .h2u => .tv

/-- The factors `(sx, sy)` of 41 R161. 4:0:0 has no `sx`; the model holds 1 there and nothing reads it. -/
def factorsOf (c : Config) : Subs → Nat × Nat
  | .s444 => (1, 1)
  | .s422 => (2, 1)
  | .s420 => (2, 2)
  | .s411 => (4, 1)
  | .s410 => (4, match c.sy410 with | .two => 2 | .four => 4)
  | .s400 => (1, 1)

/-- `es(n)` (20 R64). -/
def sampleBytes (n : Depth) : Nat := if n = .d8 then 1 else 2

/-- The channels of a layout in memory order, lowest address first (30 R101, 43 R220). -/
def layoutOrder : Surf → List Chan
  | .rgb => [.r, .g, .b]
  | .bgr => [.b, .g, .r]
  | .rgba => [.r, .g, .b, .a]
  | .bgra => [.b, .g, .r, .a]
  | .argb => [.a, .r, .g, .b]
  | .abgr => [.a, .b, .g, .r]
  | .rgba1010102 => [.r, .g, .b, .a]
  | .gray => [.l]

/-- The element sizes of surfaces A and B per operation (60 R295); format C has no B and the model's value there is
read by nothing. -/
def surfaceBytes (job : Job) : Nat × Nat :=
  match job.kind with
  | .enc => (sampleBytes job.depth, sampleBytes job.depth)
  | .dec => (sampleBytes job.depth, sampleBytes job.depth)
  | .widen => (1, 2)
  | .narrow => (2, 1)
  | .perm => (sampleBytes job.depth, sampleBytes job.depth)
  | .u2h => (sampleBytes job.depth, 2)
  | .h2u => (2, sampleBytes job.depth)

/-- `bpp` of 43 R221. -/
def pixelBytes (s : Surf) (es : Nat) : Nat := if s = .rgba1010102 then 4 else (layoutOrder s).length * es

/-- The table of 60 R295: the planes of a job with registers, role, pointer, stride, alignment, row length and row
count, in the order A, B, Y, U, V. -/
def planeTable (job : Job) : List Plane :=
  let es := sampleBytes job.depth
  let cw := (job.w + job.sx - 1) / job.sx
  let ch := (job.h + job.sy - 1) / job.sy
  let esA := (surfaceBytes job).1
  let esB := (surfaceBytes job).2
  let a : Bool → Plane := fun dest =>
    ⟨.aPtr, .aStride, dest, job.aPtr, job.aStride, if job.surfA = .rgba1010102 then 4 else esA,
      job.w * pixelBytes job.surfA esA, job.h⟩
  let b : Plane :=
    ⟨.bPtr, .bStride, true, job.bPtr, job.bStride, if job.surfB = .rgba1010102 then 4 else esB,
      job.w * pixelBytes job.surfB esB, job.h⟩
  let y : Bool → Plane := fun dest => ⟨.yPtr, .yStride, dest, job.yPtr, job.yStride, es, job.w * es, job.h⟩
  let chroma : Bool → List Plane := fun dest =>
    if job.subs = .s400 then []
    else match job.arr with
      | .p3 => [⟨.uPtr, .uStride, dest, job.uPtr, job.uStride, es, cw * es, ch⟩,
                ⟨.vPtr, .vStride, dest, job.vPtr, job.vStride, es, cw * es, ch⟩]
      | .spuv => [⟨.uPtr, .uStride, dest, job.uPtr, job.uStride, es, 2 * cw * es, ch⟩]
      | .spvu => [⟨.uPtr, .uStride, dest, job.uPtr, job.uStride, es, 2 * cw * es, ch⟩]
  match job.kind with
  | .enc => [a false, y true] ++ chroma true
  | .dec => [a true, y false] ++ chroma false
  | .widen => [a false, b]
  | .narrow => [a false, b]
  | .perm => [a false, b]
  | .u2h => [a false, b]
  | .h2u => [a false, b]

/-- What a read of the register at offset `off` returns (10 R22 to R34, R41; the codes are 60 R291). CAP has a
statement of its own. -/
def RegisterReads (s : State) (off : Nat) (v : Word) : Prop :=
  (off = 0x00 → v = 0x43434501) ∧ (off = 0x08 → v = s.desc.ctrl) ∧ (off = 0x0C → v = s.desc.fmt) ∧
  (off = 0x10 → v = s.desc.width) ∧ (off = 0x14 → v = s.desc.height) ∧ (off = 0x18 → v = s.desc.aPtr) ∧
  (off = 0x1C → v = s.desc.aStride) ∧ (off = 0x20 → v = s.desc.bPtr) ∧ (off = 0x24 → v = s.desc.bStride) ∧
  (off = 0x28 → v = s.desc.yPtr) ∧ (off = 0x2C → v = s.desc.yStride) ∧ (off = 0x30 → v = s.desc.uPtr) ∧
  (off = 0x34 → v = s.desc.uStride) ∧ (off = 0x38 → v = s.desc.vPtr) ∧ (off = 0x3C → v = s.desc.vStride) ∧
  (off = 0x40 → v = s.desc.m0) ∧ (off = 0x44 → v = s.desc.m1) ∧ (off = 0x48 → v = s.desc.m2) ∧
  (off = 0x4C → v = s.desc.m3) ∧ (off = 0x50 → v = s.desc.m4) ∧ (off = 0x54 → v = s.desc.m5) ∧
  (off = 0x58 → v = s.desc.m6) ∧ (off = 0x5C → v = s.desc.m7) ∧ (off = 0x60 → v = s.desc.m8) ∧
  (off = 0x64 → v = 0) ∧
  (off = 0x68 → ∀ k, v.getLsbD k = if k = 0 then s.busy else if k = 1 then s.done else if k = 2 then s.err else false) ∧
  (off = 0x6C → v.toNat =
    match s.errCode with
    | .none => 0
    | .op => 1
    | .bits => 2
    | .unsup => 3
    | .dim => 4
    | .null => 5
    | .align => 6
    | .stride => 7
    | .range => 8
    | .overlap => 9) ∧
  (off = 0x70 → v.toNat = s.errInfo.toNat) ∧ (off = 0x74 → v = s.irqEn) ∧ (off = 0x78 → v = s.rowPos) ∧
  (off = 0x7C → v = 0)

/-- A source element of a job: what ENC, DEC and the format S operations read (44 R252, R253, R254). Padding belongs
to none. -/
def SourceElem (job : Job) (e : Elem) : Prop :=
  if job.kind = .dec then
    (∃ x < job.w, ∃ y < job.h, e = job.lumaElem x y) ∨
    (job.subs ≠ .s400 ∧ ∃ cx < job.cw, ∃ cy < job.ch, e = job.uElem cx cy ∨ e = job.vElem cx cy)
  else ∃ x < job.w, ∃ y < job.h, e ∈ job.refA.pixelElems x y

/-- A destination element of band `j` (44 R252, R253, R254). -/
def BandWrites (job : Job) (j : Nat) (e : Elem) : Prop :=
  match job.kind with
  | .enc =>
    (∃ x < job.w, ∃ y ∈ job.bandRows j, e = job.lumaElem x y) ∨
    (job.subs ≠ .s400 ∧ ∃ cx < job.cw, e = job.uElem cx j ∨ e = job.vElem cx j)
  | .dec => ∃ x < job.w, ∃ y ∈ job.bandRows j, e ∈ job.refA.pixelElems x y
  | .widen => ∃ x < job.w, e ∈ job.refB.pixelElems x j
  | .narrow => ∃ x < job.w, e ∈ job.refB.pixelElems x j
  | .perm => ∃ x < job.w, e ∈ job.refB.pixelElems x j
  | .u2h => ∃ x < job.w, e ∈ job.refB.pixelElems x j
  | .h2u => ∃ x < job.w, e ∈ job.refB.pixelElems x j

/-- The coefficients of 40 R140 to R142 for a pair `(kr, kb)`, written out. -/
def formulaCoeffs (toYuv : Bool) (kr kb : Rat) (range : YuvRange) (n : Nat) : Coeffs :=
  let kg := 1 - kr - kb
  let ys : Rat := match range with | .tv => 219 * 2 ^ (n - 8) / (2 ^ n - 1) | .pc => 1
  let cs : Rat := match range with | .tv => 224 * 2 ^ (n - 8) / (2 ^ n - 1) | .pc => 1
  if toYuv then
    ⟨rnd (kr * ys * 65536), rnd (kg * ys * 65536), rnd (kb * ys * 65536),
     rnd (-kr / (2 * (1 - kb)) * cs * 65536), rnd (-kg / (2 * (1 - kb)) * cs * 65536), rnd (1 / 2 * cs * 65536),
     rnd (1 / 2 * cs * 65536), rnd (-kg / (2 * (1 - kr)) * cs * 65536), rnd (-kb / (2 * (1 - kr)) * cs * 65536)⟩
  else
    ⟨rnd (1 / ys * 65536), 0, rnd (2 * (1 - kr) * (1 / cs) * 65536),
     rnd (1 / ys * 65536), rnd (-2 * (1 - kb) * kb / kg * (1 / cs) * 65536),
     rnd (-2 * (1 - kr) * kr / kg * (1 / cs) * 65536),
     rnd (1 / ys * 65536), rnd (2 * (1 - kb) * (1 / cs) * 65536), 0⟩

/-- M0..M8 hold nine integers in two's complement (10 R35). -/
abbrev MatrixHolds (d : Desc) (c : Coeffs) : Prop :=
  d.m0 = BitVec.ofInt 32 c.m0 ∧ d.m1 = BitVec.ofInt 32 c.m1 ∧ d.m2 = BitVec.ofInt 32 c.m2 ∧
  d.m3 = BitVec.ofInt 32 c.m3 ∧ d.m4 = BitVec.ofInt 32 c.m4 ∧ d.m5 = BitVec.ofInt 32 c.m5 ∧
  d.m6 = BitVec.ofInt 32 c.m6 ∧ d.m7 = BitVec.ofInt 32 c.m7 ∧ d.m8 = BitVec.ofInt 32 c.m8

end Sys2Proof.Machine
end

