-- ==== Sys2Proof/Certificates/Slice0/Obligations.lean ====
section
/-! DEFINITION. The statements for the provers. OBLIGATIONS.json lists them; each docstring names the rule of spec/ it
comes from. -/

open Sys2Proof Sys2Proof.Machine

/-! ### Encoding -/

/-- 30 R92, R94, R107: no field of CTRL is dropped. -/
def Obligations.EncodedJobsDecodeBack : Prop :=
  ∀ i : Instr, i.wellFormed = true → decode (encode i) = .ok i

/-- 30 R92, R96 to R99: every CTRL word has one meaning, and the fields of a format C word stand at their bits. -/
def Obligations.DecodedCtrlWordsEncodeBack : Prop :=
  (∀ (w : Word) (i : Instr), decode w = .ok i → encode i = w ∧ i.wellFormed = true) ∧
  ∀ (w : Word) (model : ColorModel) (rot : BitVec 2) (range : YuvRange) (tf : BitVec 4),
    decode w = .ok (.enc model rot range tf) ∨ decode w = .ok (.dec model rot range tf) →
    CtrlHolds w model rot range tf

/-- 30 R100 to R104: the format word and its fields determine each other, each field at its place with its code. -/
def Obligations.FormatWordsRoundTrip : Prop :=
  (∀ f : Fmt, decodeFmt (encodeFmt f) = .ok f) ∧
  ∀ (w : Word) (f : Fmt), decodeFmt w = .ok f →
    encodeFmt f = w ∧ FmtHolds w (some f.surfA) f.surfB f.bits.toNat f.subs f.arr

/-- 30 R107: OP and FIXD name the thirteen jobs and nothing else does. -/
def Obligations.OpcodeMapHasThirteenJobs : Prop :=
  (∀ (w : Word) (i : Instr), decode w = .ok i →
    w &&& 0x0000003F =
      match i with
      | .enc _ _ _ _ => 0x01
      | .dec _ _ _ _ => 0x02
      | .widenD => 0x03
      | .widen10 => 0x13
      | .widen12 => 0x23
      | .widen16 => 0x33
      | .narrowD => 0x04
      | .narrow10 => 0x14
      | .narrow12 => 0x24
      | .narrow16 => 0x34
      | .perm => 0x05
      | .u2h => 0x06
      | .h2u => 0x07) ∧
  decode 0x01 = .ok (.enc .linear 0 .tv 0) ∧ decode 0x02 = .ok (.dec .linear 0 .tv 0) ∧
  decode 0x03 = .ok .widenD ∧ decode 0x13 = .ok .widen10 ∧ decode 0x23 = .ok .widen12 ∧ decode 0x33 = .ok .widen16 ∧
  decode 0x04 = .ok .narrowD ∧ decode 0x14 = .ok .narrow10 ∧ decode 0x24 = .ok .narrow12 ∧
  decode 0x34 = .ok .narrow16 ∧ decode 0x05 = .ok .perm ∧ decode 0x06 = .ok .u2h ∧ decode 0x07 = .ok .h2u

/-- 30 R112 and 95 section 2.9: CTRL and FMT words the spec writes out. -/
def Obligations.SpecWordsDecode : Prop :=
  decode 0x00001001 = .ok (.enc .linear 0 .pc 0) ∧ decode 0x00000101 = .ok (.enc .lifting 0 .tv 0) ∧
  decode 0x00000002 = .ok (.dec .linear 0 .tv 0) ∧ decode 0x00000014 = .ok .narrow10 ∧
  decode 0x00000003 = .ok .widenD ∧ decode 0x00000005 = .ok .perm ∧
  decodeFmt 0x00120804 = .ok ⟨.bgra, none, 8, .s420, .spuv⟩ ∧
  decodeFmt 0x00230A01 = .ok ⟨.rgb, none, 10, .s411, .spvu⟩ ∧
  decodeFmt 0x00000A71 = .ok ⟨.rgb, some .rgba1010102, 10, .s444, .p3⟩

/-- 30 R98. -/
def Obligations.ReservedCtrlBitsRefuseTheStart : Prop :=
  (∀ (s : State) (rest : List Input), s.busy = false → s.inputs = startInput :: rest →
    s.desc.ctrl &&& 0xFFF0E8C0 ≠ 0 → ∃ t, step s = .next t ∧ RefusedBy .op (.desc .ctrl) { s with inputs := rest } t) ∧
  (Reg.desc .ctrl).offset = 0x08 ∧
  ∀ (s : State) (rest : List Input) (v : Word), s.busy = false → s.inputs = .regWrite 0x08 4 v :: rest →
    step s = .next { s with inputs := rest, desc := { s.desc with ctrl := v } }

/-- 30 R100, 60 R294: every FMT cause of E_OP, a reserved bit among them, refuses the job with ERRINFO 0x0C. -/
def Obligations.ReservedFmtBitsRefuseEveryJob : Prop :=
  (∀ (i : Instr) (s : State), s.busy = false → FmtIllegal i s.desc.fmt →
    ∃ t, exec i s = .next t ∧ RefusedBy .op (.desc .fmt) s t) ∧
  (Reg.desc .fmt).offset = 0x0C

/-! ### The register port -/

/-- 10 R20: 32 words at offsets 0x00 to 0x7C; a narrower or misaligned access is refused. That a wider one and one past
0x7C are refused too is the model's reading of 93 U18 (assumption log 14, DEDUCED). -/
def Obligations.RegisterPortTakesAlignedWordsOnly : Prop :=
  (∀ off, off % 4 = 0 → off ≤ 0x7C → ∃ r, Reg.ofAccess off 4 = some r ∧ r.offset = off) ∧
  ∀ (s : State) (rest : List Input) (off size : Nat) (v : Word), size ≠ 4 ∨ off % 4 ≠ 0 ∨ 0x7C < off →
    (s.inputs = .regRead off size :: rest → step s = .refused .portAccess) ∧
    (s.inputs = .regWrite off size v :: rest → step s = .refused .portAccess)

/-- 10 R22, R26, R27: while not BUSY a descriptor register takes all 32 bits, and nothing else changes. -/
def Obligations.DescriptorWriteWhileIdleStores : Prop :=
  ∀ (s : State) (rest : List Input) (d : DescReg) (v : Word), s.busy = false →
    s.inputs = .regWrite (Reg.desc d).offset 4 v :: rest →
    ∃ t, step s = .next t ∧ t.desc.get d = v ∧ (∀ e, e ≠ d → t.desc.get e = s.desc.get e) ∧
      t = { s with inputs := rest, desc := t.desc }

/-- 10 R23. -/
def Obligations.BusyLocksTheDescriptor : Prop :=
  (∀ (s : State) (rest : List Input) (off : Nat) (v : Word), s.busy = true → s.inputs = .regWrite off 4 v :: rest →
    ((∃ d : DescReg, off = d.offset) ∨ off = 0x64 → step s = .next { s with inputs := rest }) ∧
    (off = 0x68 → step s = .next { s with
      inputs := rest, done := s.done && !v.getLsbD 1, err := s.err && !v.getLsbD 2 }) ∧
    (off = 0x74 → step s = .next { s with inputs := rest, irqEn := v }) ∧
    (off = 0x7C → v.getLsbD 0 = true → ∃ t, step s = .next t ∧ t.busy = false ∧ t.desc = Desc.zero)) ∧
  (∀ (s : State) (rest : List Input) (off : Nat), s.busy = true → off % 4 = 0 → off ≤ 0x7C →
    s.inputs = .regRead off 4 :: rest →
    ∃ t, step s = .next t ∧ RegisterReads s off t.readData ∧ t.desc = s.desc ∧ t.busy = true) ∧
  ∀ s t : State, s.busy = true → step s = .next t → t.desc = s.desc ∨ (t.desc = Desc.zero ∧ t.busy = false)

/-- 10 R41: read-only registers ignore writes, write-only registers read 0; and what a read of each register returns,
without changing any register (10 R22 to R34). Where the read value is held, and that a STATUS read, and no other, may
end the ownership of jobs, is the model's (assumption log 11 and 7). -/
def Obligations.ReadOnlyAndWriteOnlyRegisters : Prop :=
  (∀ (s : State) (rest : List Input) (off : Nat) (v : Word),
    off = 0x00 ∨ off = 0x04 ∨ off = 0x6C ∨ off = 0x70 ∨ off = 0x78 → s.inputs = .regWrite off 4 v :: rest →
    step s = .next { s with inputs := rest }) ∧
  (∀ (s : State) (rest : List Input) (off : Nat), off = 0x64 ∨ off = 0x7C → s.inputs = .regRead off 4 :: rest →
    step s = .next { s with inputs := rest, readData := 0 }) ∧
  ∀ (s : State) (rest : List Input) (off : Nat), off % 4 = 0 → off ≤ 0x7C → s.inputs = .regRead off 4 :: rest →
    ∃ t, step s = .next t ∧ RegisterReads s off t.readData ∧
      t = { s with inputs := rest, readData := t.readData, owned := t.owned } ∧ (off ≠ 0x68 → t.owned = s.owned)

/-- 10 R24, R25: ID and CAP as a read returns them. -/
def Obligations.IdentityAndCapabilities : Prop :=
  (∀ (s : State) (rest : List Input), s.inputs = .regRead 0x00 4 :: rest →
    step s = .next { s with inputs := rest, readData := 0x43434501 }) ∧
  (∀ (s : State) (rest : List Input) (v : Word), s.inputs = .regWrite 0x00 4 v :: rest →
    step s = .next { s with inputs := rest }) ∧
  (∀ (s : State) (rest : List Input) (v : Word), s.inputs = .regWrite 0x04 4 v :: rest →
    step s = .next { s with inputs := rest }) ∧
  ∀ (s : State) (rest : List Input), s.inputs = .regRead 0x04 4 :: rest →
    ∃ cap : Word, step s = .next { s with inputs := rest, readData := cap } ∧
      field cap 0 8 = (match s.cfg.vlen with | .v128 => 128 / 8 | .v256 => 256 / 8 | .v512 => 512 / 8) ∧
      field cap 8 8 = 16 ∧ field cap 16 1 = 1 ∧ field cap 17 1 = 0 ∧ field cap 18 1 = 0 ∧
      field cap 19 1 = (match s.cfg.narrowRnd with | .halfUp => 0 | .trunc => 1) ∧
      field cap 20 4 = (match s.cfg.sy410 with | .two => 2 | .four => 4) ∧ field cap 24 8 = 0 ∧
      (s.cfg = Config.default → cap = 0x00211010)

/-- 10 R30, R33, 60 R303, R306: the acknowledge clears DONE and ERR bit by bit and nothing else, and irq is the level
of what is pending and enabled, after a write to STATUS and after a write to IRQ_EN. -/
def Obligations.AcknowledgeAndInterruptLevel : Prop :=
  ∀ (s : State) (rest : List Input) (v : Word),
    (s.inputs = .regWrite 0x68 4 v :: rest → ∃ t, step s = .next t ∧
      t = { s with inputs := rest, done := s.done && !v.getLsbD 1, err := s.err && !v.getLsbD 2 } ∧
      t.irq = ((s.done && !v.getLsbD 1 && s.irqEn.getLsbD 0) || (s.err && !v.getLsbD 2 && s.irqEn.getLsbD 1))) ∧
    (s.inputs = .regWrite 0x74 4 v :: rest → ∃ t, step s = .next t ∧ t = { s with inputs := rest, irqEn := v } ∧
      t.irq = ((s.done && v.getLsbD 0) || (s.err && v.getLsbD 1)))

/-- 10 R29. -/
def Obligations.StartDoorbell : Prop :=
  (∀ (s : State) (rest : List Input) (v : Word), s.inputs = .regWrite 0x64 4 v :: rest →
    (v.getLsbD 0 = true ∧ s.busy = false →
      (∀ i, decode s.desc.ctrl = .ok i → step s = .next (launch i { s with inputs := rest })) ∧
      (∀ e, decode s.desc.ctrl = .error e →
        ∃ t, step s = .next t ∧ RefusedBy .op (.desc .ctrl) { s with inputs := rest } t)) ∧
    (v.getLsbD 0 = false ∨ s.busy = true → step s = .next { s with inputs := rest })) ∧
  ∀ (s : State) (rest : List Input), s.inputs = .regRead 0x64 4 :: rest →
    step s = .next { s with inputs := rest, readData := 0 }

/-! ### Steps -/

/-- 44 R250, R251: a START, and every turn of the busy engine, runs the instruction that CTRL decodes to. -/
def Obligations.StepRunsTheDecodedJob : Prop :=
  ∀ (s : State) (i : Instr), decode s.desc.ctrl = .ok i →
    (∀ rest, s.busy = false → s.inputs = startInput :: rest → step s = exec i { s with inputs := rest }) ∧
    (s.busy = true → s.inputs = [] → step s = exec i s) ∧
    (∀ rest, s.busy = true → s.inputs = .engineTurn :: rest → step s = exec i { s with inputs := rest })

/-- 44 R251: with BUSY = 0 the engine does nothing. -/
def Obligations.IdleEngineDoesNothing : Prop :=
  ∀ s : State, s.busy = false →
    (s.inputs = [] → step s = .next s) ∧
    ∀ rest, s.inputs = .engineTurn :: rest → step s = .next { s with inputs := rest }

/-! ### Refusal and acceptance -/

/-- 60 R300: a START whose descriptor fails a check, CTRL's encoding included, changes ERR, DONE, ERRCODE, ERRINFO and
ROWPOS and nothing else. -/
def Obligations.RefusedStartIsPrecise : Prop :=
  (∀ (i : Instr) (s : State) (r : Refused), s.busy = false → resolve i s.cfg s.desc = .error r →
    ∃ t, exec i s = .next t ∧ RefusedBy r.code r.reg s t ∧ t.irq = s.irqEn.getLsbD 1) ∧
  ∀ (s : State) (rest : List Input) (r : Refused), s.busy = false → s.inputs = startInput :: rest →
    currentJob s.cfg s.desc = .error r →
    ∃ t, step s = .next t ∧ RefusedBy r.code r.reg { s with inputs := rest } t ∧ t.irq = s.irqEn.getLsbD 1

/-- 44 R250: the launch of an accepted job. The record of owned jobs is the model's (assumption log 7). -/
def Obligations.AcceptedStartLaunches : Prop :=
  ∀ (i : Instr) (s : State) (job : Job), Ready i s job →
    ∃ t, exec i s = .next t ∧ t.irq = false ∧
      t = { s with
        busy := true, done := false, err := false, errCode := .none, errInfo := 0, rowPos := 0,
        owned := ⟨job, false⟩ :: s.owned }

/-- 60 R293, in three parts. The encoding checks pass exactly when FMT is legal, the depth is legal and no row of 60
R296 applies, and the job then has the parameters of the registers and fields of 30 R91, R105 and 41 R161. Its planes
are those of the table of 60 R295, in its order. It is accepted exactly when, besides, all of the checks d to i pass.
`surfB` in format C and `sx` for 4:0:0 are fillers of the model that nothing reads. -/
def Obligations.AcceptedExactlyWhenChecksPass : Prop :=
  (∀ (i : Instr) (c : Config) (d : Desc) (job : Job),
    decodeJob i c d = .ok job ↔
      ∃ (f : Fmt) (n : Depth), decodeFmt d.fmt = .ok f ∧ ¬FmtIllegal i d.fmt ∧ n.bits = depthNumber i f ∧
        ¬CtrlUnsupportedRow i ∧ ¬FmtUnsupportedRow i f n ∧
        job =
          { kind := operationOf i, range := rangeOf i, depth := n
            surfA := f.surfA, surfB := f.surfB.getD f.surfA, subs := f.subs, arr := f.arr
            sx := (factorsOf c f.subs).1, sy := (factorsOf c f.subs).2
            w := d.width.toNat, h := d.height.toNat
            aPtr := d.aPtr.toNat, aStride := d.aStride.toNat, bPtr := d.bPtr.toNat, bStride := d.bStride.toNat
            yPtr := d.yPtr.toNat, yStride := d.yStride.toNat, uPtr := d.uPtr.toNat, uStride := d.uStride.toNat
            vPtr := d.vPtr.toNat, vStride := d.vStride.toNat
            mat := ⟨d.m0.toInt, d.m1.toInt, d.m2.toInt, d.m3.toInt, d.m4.toInt, d.m5.toInt, d.m6.toInt,
              d.m7.toInt, d.m8.toInt⟩
            rnd := c.narrowRnd }) ∧
  (∀ job : Job, job.planes = planeTable job) ∧
  ∀ (i : Instr) (c : Config) (d : Desc) (job : Job),
    resolve i c d = .ok job ↔
      decodeJob i c d = .ok job ∧ (1 ≤ job.w ∧ job.w ≤ c.maxDim.toNat) ∧ (1 ≤ job.h ∧ job.h ≤ c.maxDim.toNat) ∧
      ∀ p ∈ job.planes, p.ptr ≠ 0 ∧ p.ptr % p.align = 0 ∧ p.stride % p.align = 0 ∧ p.rowBytes ≤ p.stride ∧
        p.ptr + p.stride * (p.rows - 1) + p.rowBytes ≤ 2 ^ 32 ∧
        (p.isDest = true → ∀ q ∈ job.planes, q ≠ p → p.hi ≤ q.ptr ∨ q.hi ≤ p.ptr)

/-- 60 R297. -/
def Obligations.BadDimensionsRefused : Prop :=
  (∀ (i : Instr) (c : Config) (d : Desc) (job : Job), decodeJob i c d = .ok job →
    (job.w = 0 ∨ c.maxDim.toNat < job.w → resolve i c d = .error ⟨.dim, .desc .width⟩) ∧
    (¬(job.w = 0 ∨ c.maxDim.toNat < job.w) → (job.h = 0 ∨ c.maxDim.toNat < job.h) →
      resolve i c d = .error ⟨.dim, .desc .height⟩)) ∧
  DescReg.offset .width = 0x10 ∧ DescReg.offset .height = 0x14

/-- 60 R302: the first plane in order whose pointer is 0. -/
def Obligations.NullPointersRefused : Prop :=
  (∀ (i : Instr) (c : Config) (d : Desc) (job : Job) (p : Plane), decodeJob i c d = .ok job → dimCheck c job = none →
    FirstPlane (fun q => q.ptr = 0) job p → resolve i c d = .error ⟨.null, .desc p.ptrReg⟩) ∧
  DescReg.offset .aPtr = 0x18 ∧ DescReg.offset .bPtr = 0x20 ∧ DescReg.offset .yPtr = 0x28 ∧
  DescReg.offset .uPtr = 0x30 ∧ DescReg.offset .vPtr = 0x38

/-- 60 R298: the first misaligned plane, its pointer before its stride. -/
def Obligations.MisalignmentRefused : Prop :=
  ∀ (i : Instr) (c : Config) (d : Desc) (job : Job) (p : Plane), decodeJob i c d = .ok job → dimCheck c job = none →
    AllPass nullCheck job → FirstPlane (fun q => q.ptr % q.align ≠ 0 ∨ q.stride % q.align ≠ 0) job p →
    resolve i c d = .error ⟨.align, .desc (if p.ptr % p.align ≠ 0 then p.ptrReg else p.strideReg)⟩

/-- 60 R304: the first plane whose stride is smaller than its row. -/
def Obligations.ShortStridesRefused : Prop :=
  (∀ (i : Instr) (c : Config) (d : Desc) (job : Job) (p : Plane), decodeJob i c d = .ok job → dimCheck c job = none →
    AllPass nullCheck job → AllPass alignCheck job → FirstPlane (fun q => q.stride < q.rowBytes) job p →
    resolve i c d = .error ⟨.stride, .desc p.strideReg⟩) ∧
  DescReg.offset .aStride = 0x1C ∧ DescReg.offset .bStride = 0x24 ∧ DescReg.offset .yStride = 0x2C ∧
  DescReg.offset .uStride = 0x34 ∧ DescReg.offset .vStride = 0x3C

/-- 60 R299: the first plane whose footprint runs past 2^32. -/
def Obligations.FootprintsPastTheTopRefused : Prop :=
  ∀ (i : Instr) (c : Config) (d : Desc) (job : Job) (p : Plane), decodeJob i c d = .ok job → dimCheck c job = none →
    AllPass nullCheck job → AllPass alignCheck job → AllPass strideCheck job →
    FirstPlane (fun q => 2 ^ 32 < q.ptr + q.stride * (q.rows - 1) + q.rowBytes) job p →
    resolve i c d = .error ⟨.range, .desc p.ptrReg⟩

/-- 60 R305: the first destination whose footprint meets another plane's. -/
def Obligations.OverlappingDestinationsRefused : Prop :=
  ∀ (i : Instr) (c : Config) (d : Desc) (job : Job) (p : Plane), decodeJob i c d = .ok job → dimCheck c job = none →
    AllPass nullCheck job → AllPass alignCheck job → AllPass strideCheck job → AllPass rangeCheck job →
    FirstPlane (fun q => q.isDest = true ∧ ∃ r ∈ job.planes, r ≠ q ∧ q.ptr < r.hi ∧ r.ptr < q.hi) job p →
    resolve i c d = .error ⟨.overlap, .desc p.ptrReg⟩

/-- 60 R301: a depth outside 8, 10, 12, 16 is E_BITS, and only a dynamic depth can be. -/
def Obligations.BadDepthsRefused : Prop :=
  (∀ (i : Instr) (c : Config) (d : Desc) (f : Fmt), decodeFmt d.fmt = .ok f → fmtShapeOk i.kind f = true →
    i.fixedDepth = none → f.bits.toNat ≠ 8 → f.bits.toNat ≠ 10 → f.bits.toNat ≠ 12 → f.bits.toNat ≠ 16 →
    resolve i c d = .error ⟨.bits, .desc .fmt⟩) ∧
  ∀ (i : Instr) (c : Config) (d : Desc) (r : Reg), resolve i c d = .error ⟨.bits, r⟩ →
    r = .desc .fmt ∧ i.fixedDepth = none ∧ i ≠ .widen10 ∧ i ≠ .widen12 ∧ i ≠ .widen16 ∧ i ≠ .narrow10 ∧
    i ≠ .narrow12 ∧ i ≠ .narrow16

/-- 60 R296: the table of unsupported combinations, the CTRL causes first. -/
def Obligations.UnsupportedCombinationsRefused : Prop :=
  ∀ (i : Instr) (c : Config) (d : Desc) (f : Fmt) (n : Depth), decodeFmt d.fmt = .ok f →
    fmtShapeOk i.kind f = true → effectiveDepth i f = some n →
    (∀ model rot range tf, i = .enc model rot range tf ∨ i = .dec model rot range tf →
      (model = .lifting ∨ tf ≠ 0 → resolve i c d = .error ⟨.unsup, .desc .ctrl⟩) ∧
      (model = .linear → tf = 0 →
        f.surfA = .gray ∨ (f.surfA = .rgba1010102 ∧ n ≠ .d10) ∨ (f.subs = .s400 ∧ f.arr ≠ .p3) →
        resolve i c d = .error ⟨.unsup, .desc .fmt⟩)) ∧
    (i.kind = .widen ∨ i.kind = .narrow → n = .d8 ∨ f.surfB ≠ some f.surfA ∨ f.surfA = .rgba1010102 →
      resolve i c d = .error ⟨.unsup, .desc .fmt⟩) ∧
    (i.kind = .u2h ∨ i.kind = .h2u → f.surfB ≠ some f.surfA ∨ f.surfA = .rgba1010102 →
      resolve i c d = .error ⟨.unsup, .desc .fmt⟩) ∧
    (∀ b, i.kind = .perm → f.surfB = some b →
      f.surfA = .gray ∨ b = .gray ∨ ((f.surfA = .rgba1010102 ∨ b = .rgba1010102) ∧ n ≠ .d10) ∨
        (f.surfA = .rgba1010102 ∧ (b = .rgba ∨ b = .bgra ∨ b = .argb ∨ b = .abgr)) ∨
        (b = .rgba1010102 ∧ (f.surfA = .rgba ∨ f.surfA = .bgra ∨ f.surfA = .argb ∨ f.surfA = .abgr)) →
      resolve i c d = .error ⟨.unsup, .desc .fmt⟩)

/-! ### What each instruction's band does -/

/-- 44 R252, 40 R134, 41 R170, R172: the luma rows and the chroma row of a band of ENC, the coefficients read from
M0..M8, and nothing else in memory. -/
def Obligations.EncBandWritesLumaAndAveragedChroma : Prop :=
  ∀ (model : ColorModel) (rot : BitVec 2) (range : YuvRange) (tf : BitVec 4) (s : State) (job : Job),
    Running (.enc model rot range tf) s job →
    ∃ t, exec (.enc model rot range tf) s = .next t ∧
      (∀ y ∈ job.bandRows s.rowPos.toNat, ∀ x < job.w,
        (t.mem.sample (job.lumaElem x y) : Int) =
          clamp ((rowTimesPixel s.desc.m0 s.desc.m1 s.desc.m2 job s.mem x y
            + (if range = .tv then 16 * 2 ^ (job.depth.bits - 8) else 0) * 65536 + 32768) / 65536)
            0 (2 ^ job.depth.bits - 1)) ∧
      (job.subs ≠ .s400 → ∀ cx < job.cw,
        (t.mem.sample (job.uElem cx s.rowPos.toNat) : Int) =
          clamp ((((job.block cx s.rowPos.toNat).map fun p =>
              rowTimesPixel s.desc.m3 s.desc.m4 s.desc.m5 job s.mem p.1 p.2).sum
            + ((job.block cx s.rowPos.toNat).length : Int) * (2 ^ (job.depth.bits - 1) * 65536 + 32768))
            / (((job.block cx s.rowPos.toNat).length : Int) * 65536)) 0 (2 ^ job.depth.bits - 1) ∧
        (t.mem.sample (job.vElem cx s.rowPos.toNat) : Int) =
          clamp ((((job.block cx s.rowPos.toNat).map fun p =>
              rowTimesPixel s.desc.m6 s.desc.m7 s.desc.m8 job s.mem p.1 p.2).sum
            + ((job.block cx s.rowPos.toNat).length : Int) * (2 ^ (job.depth.bits - 1) * 65536 + 32768))
            / (((job.block cx s.rowPos.toNat).length : Int) * 65536)) 0 (2 ^ job.depth.bits - 1)) ∧
      SameOutside (job.bandElems s.rowPos.toNat) s.mem t.mem ∧ BandFrame job s t

/-- 44 R253, 40 R135, 41 R173, R174, 43 R226: the pixels of a band of DEC, read back from surface A, with opaque alpha
and neutral chroma for 4:0:0, and nothing else in memory. -/
def Obligations.DecBandWritesPixels : Prop :=
  ∀ (model : ColorModel) (rot : BitVec 2) (range : YuvRange) (tf : BitVec 4) (s : State) (job : Job),
    Running (.dec model rot range tf) s job →
    ∃ t, exec (.dec model rot range tf) s = .next t ∧
      (∀ y ∈ job.bandRows s.rowPos.toNat, ∀ x < job.w, ∀ u v : Nat,
        (job.subs = .s400 → u = 2 ^ (job.depth.bits - 1) ∧ v = 2 ^ (job.depth.bits - 1)) →
        (job.subs ≠ .s400 → u = s.mem.sample (job.uElem (x / job.sx) s.rowPos.toNat) ∧
          v = s.mem.sample (job.vElem (x / job.sx) s.rowPos.toNat)) →
        let y' : Int := (s.mem.sample (job.lumaElem x y) : Int)
          - (if range = .tv then 16 * 2 ^ (job.depth.bits - 8) else 0)
        let u' : Int := (u : Int) - 2 ^ (job.depth.bits - 1)
        let v' : Int := (v : Int) - 2 ^ (job.depth.bits - 1)
        ((job.refA.unpack t.mem x y).r : Int) =
          clamp ((s.desc.m0.toInt * y' + s.desc.m1.toInt * u' + s.desc.m2.toInt * v' + 32768) / 65536)
            0 (2 ^ job.depth.bits - 1) ∧
        ((job.refA.unpack t.mem x y).g : Int) =
          clamp ((s.desc.m3.toInt * y' + s.desc.m4.toInt * u' + s.desc.m5.toInt * v' + 32768) / 65536)
            0 (2 ^ job.depth.bits - 1) ∧
        ((job.refA.unpack t.mem x y).b : Int) =
          clamp ((s.desc.m6.toInt * y' + s.desc.m7.toInt * u' + s.desc.m8.toInt * v' + 32768) / 65536)
            0 (2 ^ job.depth.bits - 1) ∧
        (job.surfA = .rgba1010102 → (job.refA.unpack t.mem x y).a = 3) ∧
        (job.surfA ≠ .rgba1010102 → Chan.a ∈ job.surfA.channels →
          (job.refA.unpack t.mem x y).a = 2 ^ job.depth.bits - 1)) ∧
      SameOutside (job.bandElems s.rowPos.toNat) s.mem t.mem ∧ BandFrame job s t

/-- 42 R192: WIDEN.D, depth from FMT.BITS. -/
def Obligations.WidenDynamicReplicatesBits : Prop :=
  ElementwiseBand .widenD (fun job v => v * 2 ^ (job.depth.bits - 8) + v / 2 ^ (16 - job.depth.bits)) ∧
  ∀ (c : Config) (d : Desc) (job : Job), resolve .widenD c d = .ok job →
    job.depth.bits = field d.fmt 8 5 ∧ job.depth ≠ .d8 ∧ job.esA = 1 ∧ job.esB = 2

/-- 42 R193. -/
def Obligations.WidenTenReplicatesBits : Prop :=
  decode 0x13 = .ok .widen10 ∧ ElementwiseBand .widen10 (fun _ v => v * 4 + v / 64) ∧
  (∀ (c : Config) (d : Desc) (job : Job), resolve .widen10 c d = .ok job →
    job.depth.bits = 10 ∧ job.esA = 1 ∧ job.esB = 2) ∧
  ∀ (c : Config) (d : Desc) (r : Reg), resolve .widen10 c d ≠ .error ⟨.bits, r⟩

/-- 42 R194. -/
def Obligations.WidenTwelveReplicatesBits : Prop :=
  decode 0x23 = .ok .widen12 ∧ ElementwiseBand .widen12 (fun _ v => v * 16 + v / 16) ∧
  (∀ (c : Config) (d : Desc) (job : Job), resolve .widen12 c d = .ok job →
    job.depth.bits = 12 ∧ job.esA = 1 ∧ job.esB = 2) ∧
  ∀ (c : Config) (d : Desc) (r : Reg), resolve .widen12 c d ≠ .error ⟨.bits, r⟩

/-- 42 R195. -/
def Obligations.WidenSixteenReplicatesBits : Prop :=
  decode 0x33 = .ok .widen16 ∧ ElementwiseBand .widen16 (fun _ v => 257 * v) ∧
  (∀ (c : Config) (d : Desc) (job : Job), resolve .widen16 c d = .ok job →
    job.depth.bits = 16 ∧ job.esA = 1 ∧ job.esB = 2) ∧
  ∀ (c : Config) (d : Desc) (r : Reg), resolve .widen16 c d ≠ .error ⟨.bits, r⟩

/-- 42 R196, R197: NARROW.D, depth from FMT.BITS, both rounding modes. -/
def Obligations.NarrowDynamicRoundsAndSaturates : Prop :=
  ElementwiseBand .narrowD (fun job v =>
    match job.rnd with
    | .halfUp => min ((v + 2 ^ (job.depth.bits - 9)) / 2 ^ (job.depth.bits - 8)) 255
    | .trunc => min (v / 2 ^ (job.depth.bits - 8)) 255) ∧
  ∀ (c : Config) (d : Desc) (job : Job), resolve .narrowD c d = .ok job →
    job.rnd = c.narrowRnd ∧ job.depth.bits = field d.fmt 8 5 ∧ job.depth ≠ .d8 ∧ job.esA = 2 ∧ job.esB = 1

/-- 42 R196, R198. -/
def Obligations.NarrowTenRoundsAndSaturates : Prop :=
  decode 0x14 = .ok .narrow10 ∧
  ElementwiseBand .narrow10 (fun job v =>
    match job.rnd with
    | .halfUp => min ((v + 2) / 4) 255
    | .trunc => min (v / 4) 255) ∧
  (∀ (c : Config) (d : Desc) (job : Job), resolve .narrow10 c d = .ok job →
    job.rnd = c.narrowRnd ∧ job.depth.bits = 10 ∧ job.esA = 2 ∧ job.esB = 1) ∧
  ∀ (c : Config) (d : Desc) (r : Reg), resolve .narrow10 c d ≠ .error ⟨.bits, r⟩

/-- 42 R196, R199. -/
def Obligations.NarrowTwelveRoundsAndSaturates : Prop :=
  decode 0x24 = .ok .narrow12 ∧
  ElementwiseBand .narrow12 (fun job v =>
    match job.rnd with
    | .halfUp => min ((v + 8) / 16) 255
    | .trunc => min (v / 16) 255) ∧
  (∀ (c : Config) (d : Desc) (job : Job), resolve .narrow12 c d = .ok job →
    job.rnd = c.narrowRnd ∧ job.depth.bits = 12 ∧ job.esA = 2 ∧ job.esB = 1) ∧
  ∀ (c : Config) (d : Desc) (r : Reg), resolve .narrow12 c d ≠ .error ⟨.bits, r⟩

/-- 42 R196, R200. -/
def Obligations.NarrowSixteenRoundsAndSaturates : Prop :=
  decode 0x34 = .ok .narrow16 ∧
  ElementwiseBand .narrow16 (fun job v =>
    match job.rnd with
    | .halfUp => min ((v + 128) / 256) 255
    | .trunc => min (v / 256) 255) ∧
  (∀ (c : Config) (d : Desc) (job : Job), resolve .narrow16 c d = .ok job →
    job.rnd = c.narrowRnd ∧ job.depth.bits = 16 ∧ job.esA = 2 ∧ job.esB = 1) ∧
  ∀ (c : Config) (d : Desc) (r : Reg), resolve .narrow16 c d ≠ .error ⟨.bits, r⟩

/-- 43 R229, R230: every channel of surface B, read back: the source's channel bit for bit, an opaque alpha where only
B has one, masked to its field in a packed destination. -/
def Obligations.PermCopiesChannels : Prop :=
  ∀ (s : State) (job : Job), Running .perm s job →
    ∃ t, exec .perm s = .next t ∧
      (∀ x < job.w, ∀ c ∈ job.surfB.channels, ∀ v : Nat,
        (c ∈ job.surfA.channels → v = (job.refA.unpack s.mem x s.rowPos.toNat).get c) →
        (c ∉ job.surfA.channels → v = if job.surfB = .rgba1010102 then 3 else 2 ^ job.depth.bits - 1) →
        (job.refB.unpack t.mem x s.rowPos.toNat).get c =
          if job.surfB = .rgba1010102 then (if c = .a then v % 4 else v % 1024) else v) ∧
      SameOutside (job.bandElems s.rowPos.toNat) s.mem t.mem ∧ BandFrame job s t

/-- 42 R204: U2H rounds the exact quotient once. The binary16 format is 42 R203, which the spec marks as general
knowledge. -/
def Obligations.U2hRoundsTheQuotientOnce : Prop :=
  ElementwiseBand .u2h (fun job v => rne16 v (2 ^ job.depth.bits - 1)) ∧
  ∀ (c : Config) (d : Desc) (job : Job), resolve .u2h c d = .ok job →
    job.depth.bits = field d.fmt 8 5 ∧ job.esA = job.depth.es ∧ job.esB = 2

/-- 42 R206: H2U on every pattern: sign bit 15, exponent [14:10], fraction [9:0] (42 R203, general knowledge). -/
def Obligations.H2uScalesAndSaturates : Prop :=
  ElementwiseBand .h2u (fun job h =>
    let e := h / 1024 % 32
    let f := h % 1024
    if e = 31 ∧ f ≠ 0 then 0
    else if h / 32768 % 2 = 1 then 0
    else if e = 31 then 2 ^ job.depth.bits - 1
    else if e = 0 then min ((f * (2 ^ job.depth.bits - 1) + 2 ^ 23) / 2 ^ 24) (2 ^ job.depth.bits - 1)
    else min (((1024 + f) * 2 ^ e * (2 ^ job.depth.bits - 1) + 2 ^ 24) / 2 ^ 25) (2 ^ job.depth.bits - 1)) ∧
  ∀ (c : Config) (d : Desc) (job : Job), resolve .h2u c d = .ok job →
    job.depth.bits = field d.fmt 8 5 ∧ job.esA = 2 ∧ job.esB = job.depth.es

/-! ### Properties of the arithmetic -/

/-- 42 R205: no finite pattern is nearer to the quotient, and at a tie the fraction is even (magnitudes in units of
2^-25). -/
def Obligations.RneIsNearestEven : Prop :=
  ∀ p d h : Nat, 0 < d → p ≤ 65504 * d → h < 0x7C00 →
    rne16 p d < 0x7C00 ∧
    ((halfMagnitude (rne16 p d) * d : Int) - p * 2 ^ 25).natAbs ≤ ((halfMagnitude h * d : Int) - p * 2 ^ 25).natAbs ∧
    (((halfMagnitude (rne16 p d) * d : Int) - p * 2 ^ 25).natAbs = ((halfMagnitude h * d : Int) - p * 2 ^ 25).natAbs →
      h ≠ rne16 p d → rne16 p d % 2 = 0)

/-- 42 R202, R207: narrowing a widened value gives it back or one more, and exactly it under TRUNC; the round trip
through half float is exact at 8 and 10 bits. -/
def Obligations.BitDepthRoundTrips : Prop :=
  (∀ v < 256, ∀ n, n = 10 ∨ n = 12 ∨ n = 16 →
    narrow .trunc (widen v n) n = v ∧
    narrow .halfUp (widen v n) n = if 128 ≤ v ∧ v ≤ 254 then v + 1 else v) ∧
  (∀ v < 256, h2u (u2h v 8) 8 = v) ∧ ∀ v < 1024, h2u (u2h v 10) 10 = v

/-- 40 R147: the PC range round trip at 8 bits, 4:4:4, is within 1 on every channel for all three presets. -/
def Obligations.PcRoundTripWithinOne : Prop :=
  ∀ (p : Preset) (r g b : Nat), r < 256 → g < 256 → b < 256 →
    let m := encCoeffs p.kr p.kb .pc 8
    let back := inverse (decCoeffs p.kr p.kb .pc 8) .pc 8 (forwardY m .pc 8 r g b) (decimate (accU m r g b) 1 8)
      (decimate (accV m r g b) 1 8)
    ((back.1 : Int) - r).natAbs ≤ 1 ∧ ((back.2.1 : Int) - g).natAbs ≤ 1 ∧ ((back.2.2 : Int) - b).natAbs ≤ 1

/-- 40 R147: the TV range round trip at 8 bits, 4:4:4, is within 1 on R and G and within 2 on B. -/
def Obligations.TvRoundTripWithinTwoOnBlue : Prop :=
  ∀ (p : Preset) (r g b : Nat), r < 256 → g < 256 → b < 256 →
    let m := encCoeffs p.kr p.kb .tv 8
    let back := inverse (decCoeffs p.kr p.kb .tv 8) .tv 8 (forwardY m .tv 8 r g b) (decimate (accU m r g b) 1 8)
      (decimate (accV m r g b) 1 8)
    ((back.1 : Int) - r).natAbs ≤ 1 ∧ ((back.2.1 : Int) - g).natAbs ≤ 1 ∧ ((back.2.2 : Int) - b).natAbs ≤ 2

/-! ### The whole machine -/

/-- 10 R28, R30, R31, R32, 20 R60: the invariant of every run is kept by every step. -/
def Obligations.EveryStepKeepsSafe : Prop := ∀ s t : State, Safe s → step s = .next t → Safe t

/-- 10 R40: what reset leaves, and that it meets the invariant. -/
def Obligations.ResetLeavesAllRegistersZero : Prop :=
  Safe State.reset ∧ (∀ d, State.reset.desc.get d = 0) ∧ State.reset.statusWord = 0 ∧
  State.reset.errCode.code = 0 ∧ State.reset.errInfo = 0 ∧ State.reset.irqEn = 0 ∧ State.reset.rowPos = 0 ∧
  State.reset.irq = false

/-- 60 R292, 44 R251: no step from a state that meets the invariant faults. -/
def Obligations.SafeStatesNeverFault : Prop := ∀ (s : State) (f : Fault), Safe s → step s ≠ .fault f

/-- 44 R255, R256, 70 R346, 20 R68: a launched job left alone shows ROWPOS 0, 1, ..., NBANDS, is done after exactly
NBANDS steps, and has changed no byte outside its destination elements. That every step with no input left is a band
is the model's choice (assumption log 2). -/
def Obligations.AcceptedJobsCompleteInNbandsSteps : Prop :=
  ∀ (i : Instr) (s : State) (job : Job), s.busy = true → s.done = false → s.inputs = [] → s.rowPos = 0 →
    s.mem.wf = true → decode s.desc.ctrl = .ok i → resolve i s.cfg s.desc = .ok job →
    (∀ k < job.nbands, ∃ t, Steps k s t ∧ t.busy = true ∧ t.done = false ∧ t.rowPos.toNat = k) ∧
    ∃ t, Steps job.nbands s t ∧ t.busy = false ∧ t.done = true ∧ t.rowPos.toNat = job.nbands ∧ t.desc = s.desc ∧
      SameOutside job.destElems s.mem t.mem

/-- 00 R8, R9, 44 R262: no step changes a build parameter, and VLEN_BITS changes nothing a job computes. -/
def Obligations.BuildParametersAreConstant : Prop :=
  (∀ s t : State, step s = .next t → t.cfg = s.cfg) ∧
  ∀ (i : Instr) (s t : State) (v : VlenBits), exec i s = .next t →
    exec i { s with cfg := { s.cfg with vlen := v } } = .next { t with cfg := { t.cfg with vlen := v } }

/-- 20 R62, R65, 60 R299: every element an accepted job reads or writes lies in memory and is naturally aligned. With
it, where those elements are and how they are read: little-endian bytes (20 R62), the channels of each layout in their
order (30 R101, 43 R220, R222), the fields of the packed word (43 R224, general knowledge of the spec: assumption log
16), and the five address forms (41 R165, R167, 44 R267). -/
def Obligations.AcceptedJobsStayInMemoryAligned : Prop :=
  (∀ (i : Instr) (c : Config) (d : Desc) (job : Job), resolve i c d = .ok job →
    (∀ x < job.w, ∀ y < job.h, ∀ e ∈ job.refA.pixelElems x y, ElemOk e) ∧
    (job.kind.isC = false → ∀ x < job.w, ∀ y < job.h, ∀ e ∈ job.refB.pixelElems x y, ElemOk e) ∧
    (job.kind.isC = true → ∀ x < job.w, ∀ y < job.h, ElemOk (job.lumaElem x y)) ∧
    (job.kind.isC = true → job.subs ≠ .s400 → ∀ cx < job.cw, ∀ cy < job.ch,
      ElemOk (job.uElem cx cy) ∧ ElemOk (job.vElem cx cy))) ∧
  (∀ (m : Memory) (a : Nat), m.sample ⟨a, 1⟩ = (m.getByte a).toNat ∧
    m.sample ⟨a, 2⟩ = (m.getByte a).toNat + 256 * (m.getByte (a + 1)).toNat ∧
    m.sample ⟨a, 4⟩ = (m.getByte a).toNat + 256 * (m.getByte (a + 1)).toNat + 65536 * (m.getByte (a + 2)).toNat
      + 16777216 * (m.getByte (a + 3)).toNat) ∧
  (∀ (m : Memory) (p : SurfRef) (x y : Nat), p.surf ≠ .rgba1010102 →
    p.surf.channels = layoutOrder p.surf ∧ p.surf.count = (layoutOrder p.surf).length ∧
    (∀ k, p.elem x y k = ⟨p.ptr + y * p.stride + (x * (layoutOrder p.surf).length + k) * p.es, p.es⟩) ∧
    (∀ e, e ∈ p.pixelElems x y ↔ ∃ k < (layoutOrder p.surf).length,
      e = ⟨p.ptr + y * p.stride + (x * (layoutOrder p.surf).length + k) * p.es, p.es⟩) ∧
    ∀ (k : Nat) (c : Chan), (layoutOrder p.surf)[k]? = some c →
      (p.unpack m x y).get c =
        m.sample ⟨p.ptr + y * p.stride + (x * (layoutOrder p.surf).length + k) * p.es, p.es⟩) ∧
  (∀ (m : Memory) (p : SurfRef) (x y : Nat), p.surf = .rgba1010102 →
    p.pixelElems x y = [⟨p.ptr + y * p.stride + 4 * x, 4⟩] ∧
    (p.unpack m x y).get .r = m.sample ⟨p.ptr + y * p.stride + 4 * x, 4⟩ % 2 ^ 10 ∧
    (p.unpack m x y).get .g = m.sample ⟨p.ptr + y * p.stride + 4 * x, 4⟩ / 2 ^ 10 % 2 ^ 10 ∧
    (p.unpack m x y).get .b = m.sample ⟨p.ptr + y * p.stride + 4 * x, 4⟩ / 2 ^ 20 % 2 ^ 10 ∧
    (p.unpack m x y).get .a = m.sample ⟨p.ptr + y * p.stride + 4 * x, 4⟩ / 2 ^ 30 % 2 ^ 2) ∧
  (∀ px : Px, px.get .r = px.r ∧ px.get .g = px.g ∧ px.get .b = px.b ∧ px.get .a = px.a ∧ px.get .l = px.l) ∧
  ∀ job : Job, job.refA = ⟨job.surfA, (surfaceBytes job).1, job.aPtr, job.aStride⟩ ∧
    job.refB = ⟨job.surfB, (surfaceBytes job).2, job.bPtr, job.bStride⟩ ∧
    (∀ x y, job.lumaElem x y =
      ⟨job.yPtr + y * job.yStride + x * sampleBytes job.depth, sampleBytes job.depth⟩) ∧
    ∀ cx cy,
      (job.arr = .p3 →
        job.uElem cx cy = ⟨job.uPtr + cy * job.uStride + cx * sampleBytes job.depth, sampleBytes job.depth⟩ ∧
        job.vElem cx cy = ⟨job.vPtr + cy * job.vStride + cx * sampleBytes job.depth, sampleBytes job.depth⟩) ∧
      (job.arr = .spuv →
        job.uElem cx cy = ⟨job.uPtr + cy * job.uStride + 2 * cx * sampleBytes job.depth, sampleBytes job.depth⟩ ∧
        job.vElem cx cy =
          ⟨job.uPtr + cy * job.uStride + (2 * cx + 1) * sampleBytes job.depth, sampleBytes job.depth⟩) ∧
      (job.arr = .spvu →
        job.uElem cx cy =
          ⟨job.uPtr + cy * job.uStride + (2 * cx + 1) * sampleBytes job.depth, sampleBytes job.depth⟩ ∧
        job.vElem cx cy = ⟨job.uPtr + cy * job.uStride + 2 * cx * sampleBytes job.depth, sampleBytes job.depth⟩)

/-- 20 R68: no byte belongs to two destination elements of an accepted job, which are exactly those the bands of 44 R252
to R254 write. -/
def Obligations.DestinationBytesAreWrittenOnce : Prop :=
  (∀ (i : Instr) (c : Config) (d : Desc) (job : Job), resolve i c d = .ok job →
    (job.destElems.flatMap Elem.bytes).Nodup) ∧
  (∀ (job : Job) (e : Elem), e ∈ job.destElems ↔ ∃ j < job.nbands, e ∈ job.bandElems j) ∧
  ∀ (job : Job) (j : Nat) (e : Elem), e ∈ job.bandElems j ↔ BandWrites job j e

/-- 20 R68, R80: every destination element lies in a destination footprint and outside every source footprint. -/
def Obligations.DestinationsAvoidSources : Prop :=
  ∀ (i : Instr) (c : Config) (d : Desc) (job : Job), resolve i c d = .ok job →
    ∀ e ∈ job.destElems, ∀ a, e.covers a →
      job.ownsDest a = true ∧ ∀ p ∈ job.planes, p.isDest = false → p.contains a = false

/-- 44 R258, 20 R68: what a band writes depends on the job and on the bytes of its source elements only, padding
excluded. -/
def Obligations.BandsDependOnSourceBytesOnly : Prop :=
  ∀ (i : Instr) (s s' t t' : State) (job : Job), Running i s job → Running i s' job → s'.rowPos = s.rowPos →
    (∀ e, SourceElem job e → ∀ a, e.covers a → s'.mem.getByte a = s.mem.getByte a) →
    exec i s = .next t → exec i s' = .next t' →
    ∀ e ∈ job.bandElems s.rowPos.toNat, t'.mem.sample e = t.mem.sample e

/-- 42 R201: the fixed and the dynamic variants are one function. -/
def Obligations.FixedAndDynamicVariantsAgree : Prop :=
  ∀ s : State,
    (field s.desc.fmt 8 5 = 10 → exec .widenD s = exec .widen10 s ∧ exec .narrowD s = exec .narrow10 s) ∧
    (field s.desc.fmt 8 5 = 12 → exec .widenD s = exec .widen12 s ∧ exec .narrowD s = exec .narrow12 s) ∧
    (field s.desc.fmt 8 5 = 16 → exec .widenD s = exec .widen16 s ∧ exec .narrowD s = exec .narrow16 s)

/-- 41 R177: ENC with the two semi-planar arrangements writes the same luma and exchanges the elements of every chroma
pair. -/
def Obligations.SemiPlanarOrdersExchangePairs : Prop :=
  ∀ (model : ColorModel) (rot : BitVec 2) (range : YuvRange) (tf : BitVec 4) (s s' t t' : State) (job : Job),
    job.arr = .spuv → Running (.enc model rot range tf) s job →
    Running (.enc model rot range tf) s' { job with arr := .spvu } →
    s'.rowPos = s.rowPos → s'.mem = s.mem →
    exec (.enc model rot range tf) s = .next t → exec (.enc model rot range tf) s' = .next t' →
    (∀ y ∈ job.bandRows s.rowPos.toNat, ∀ x < job.w,
      t'.mem.sample (job.lumaElem x y) = t.mem.sample (job.lumaElem x y)) ∧
    ∀ cx < job.cw,
      t'.mem.sample (job.vElem cx s.rowPos.toNat) = t.mem.sample (job.uElem cx s.rowPos.toNat) ∧
      t'.mem.sample (job.uElem cx s.rowPos.toNat) = t.mem.sample (job.vElem cx s.rowPos.toNat)

/-- 41 R162, R163, R164: the bands part the luma rows, band `j` being the rows from `j * sy` up to `(j + 1) * sy`, and the
block of a chroma sample has `bw * bh` positions, at least one. -/
def Obligations.BandsPartTheRows : Prop :=
  ∀ job : Job, 0 < job.sx → 0 < job.sy →
    job.cw = (job.w + job.sx - 1) / job.sx ∧ job.ch = (job.h + job.sy - 1) / job.sy ∧
    job.nbands = (job.h + job.sy - 1) / job.sy ∧
    (∀ j y, y ∈ job.bandRows j ↔ j * job.sy ≤ y ∧ y < (j + 1) * job.sy ∧ y < job.h) ∧
    (∀ y < job.h, ∃! j, j < job.nbands ∧ y ∈ job.bandRows j) ∧
    ∀ cx < job.cw, ∀ cy < job.ch,
      (job.block cx cy).length = min job.sx (job.w - cx * job.sx) * min job.sy (job.h - cy * job.sy) ∧
      1 ≤ (job.block cx cy).length ∧
      ∀ x y, (x, y) ∈ job.block cx cy ↔ (x < job.w ∧ y < job.h ∧ x / job.sx = cx ∧ y / job.sy = cy)

/-- 70 R330, R332, 93 U8: SRESET and hardware reset put every register at its reset value at any time; memory outside
the destination elements of a running job is unchanged, and all of memory where none runs. A write to SRESET with
bit 0 = 0 does nothing (10 R34). -/
def Obligations.ResetAbandonsTheJob : Prop :=
  (∀ (s : State) (rest : List Input) (v : Word), s.mem.wf = true →
    (s.inputs = .regWrite 0x7C 4 v :: rest ∧ v.getLsbD 0 = true) ∨ s.inputs = .hardReset :: rest →
    ∃ t, step s = .next t ∧ (∀ d, t.desc.get d = 0) ∧ t.busy = false ∧ t.done = false ∧ t.err = false ∧
      t.errCode = .none ∧ t.errInfo = 0 ∧ t.irqEn = 0 ∧ t.rowPos = 0 ∧ t.irq = false ∧ t.owned = [] ∧
      t.inputs = rest ∧ t.cfg = s.cfg ∧
      (s.busy = false → t.mem = s.mem) ∧
      ∀ job, currentJob s.cfg s.desc = .ok job → SameOutside job.destElems s.mem t.mem) ∧
  ∀ (s : State) (rest : List Input) (v : Word), s.inputs = .regWrite 0x7C 4 v :: rest → v.getLsbD 0 = false →
    step s = .next { s with inputs := rest }

/-- 20 R72, 93 U6: a host write to memory. Where no owned job has the byte, it is stored and nothing else changes; where
one has it, that job is marked, and no byte changes but the one written and destination elements of such jobs. How the
written byte itself stands is the model's choice (assumption log 8) and is not stated. The bands to come of a job so
marked still complete, and change no byte but their own elements. -/
def Obligations.HostWriteToOwnedByteSpoilsOnlyItsJobs : Prop :=
  (∀ (s : State) (rest : List Input) (a : Word) (v : Byte), s.mem.wf = true → s.inputs = .memWrite a v :: rest →
    ∃ t, step s = .next t ∧
      ((∀ o ∈ s.owned, o.job.owns a.toNat = false) →
        t = { s with inputs := rest, mem := t.mem } ∧ t.mem.getByte a.toNat = v ∧
        ∀ x, x ≠ a.toNat → t.mem.getByte x = s.mem.getByte x) ∧
      (∀ x, x ≠ a.toNat →
        (∀ o ∈ s.owned, o.job.owns a.toNat = true → ∀ e ∈ o.job.destElems, ¬e.covers x) →
        t.mem.getByte x = s.mem.getByte x) ∧
      t.owned = s.owned.map (fun o => if o.job.owns a.toNat then { o with tainted := true } else o) ∧
      t.desc = s.desc ∧ t.busy = s.busy ∧ t.done = s.done ∧ t.err = s.err ∧ t.errCode = s.errCode ∧
      t.errInfo = s.errInfo ∧ t.irqEn = s.irqEn ∧ t.rowPos = s.rowPos ∧ t.cfg = s.cfg ∧ t.inputs = rest ∧
      t.readData = s.readData ∧ t.memData = s.memData) ∧
  ∀ (i : Instr) (s : State) (job : Job), s.busy = true → resolve i s.cfg s.desc = .ok job →
    s.rowPos.toNat < job.nbands → s.runningTainted = true → s.mem.wf = true →
    ∃ t, exec i s = .next t ∧ t.rowPos = s.rowPos + 1 ∧ t.desc = s.desc ∧ t.err = s.err ∧
      t.errCode = s.errCode ∧ t.errInfo = s.errInfo ∧ t.irqEn = s.irqEn ∧ t.cfg = s.cfg ∧ t.owned = s.owned ∧
      t.inputs = s.inputs ∧ t.readData = s.readData ∧ t.memData = s.memData ∧
      (s.rowPos.toNat + 1 = job.nbands → t.busy = false ∧ t.done = true) ∧
      (s.rowPos.toNat + 1 ≠ job.nbands → t.busy = true ∧ t.done = s.done) ∧
      SameOutside (job.bandElems s.rowPos.toNat) s.mem t.mem

/-- 20 R72, 93 U6: the host's memory read gives the byte outside the destination footprints of owned jobs, and
anywhere changes no register and no memory (the counter of free values may move: assumption log 6); a STATUS read that
returns DONE gives every owned byte back. -/
def Obligations.OwnershipEndsWhenDoneIsRead : Prop :=
  (∀ (s : State) (rest : List Input), s.done = true → s.inputs = .regRead 0x68 4 :: rest →
    ∃ t, step s = .next t ∧ t.owned = [] ∧ RegisterReads s 0x68 t.readData ∧ t.mem = s.mem) ∧
  (∀ (s : State) (rest : List Input), s.done = false → s.inputs = .regRead 0x68 4 :: rest →
    ∃ t, step s = .next t ∧ RegisterReads s 0x68 t.readData ∧ t = { s with inputs := rest, readData := t.readData }) ∧
  (∀ (s : State) (rest : List Input) (a : Word), (∀ o ∈ s.owned, o.job.ownsDest a.toNat = false) →
    s.inputs = .memRead a :: rest → step s = .next { s with inputs := rest, memData := s.mem.getByte a.toNat }) ∧
  ∀ (s : State) (rest : List Input) (a : Word), s.inputs = .memRead a :: rest →
    ∃ t, step s = .next t ∧ t = { s with inputs := rest, memData := t.memData, freeIx := t.freeIx }

/-- 30 R108, R109, R111: a job line's register writes, made while idle, leave CTRL with the job's word, FMT with the
line's fields, WIDTH, HEIGHT and the named pointers, strides and coefficients with its values, and every register the
line does not name as it was; the START write and the STATUS reads come next. A pair `(kr, kb)` is stated for ENC and
DEC within 40 R143 and R142, where the spec gives its coefficients, and the presets are pairs. A layout name stands for
the pair of 30 R110, which the spec marks as general knowledge (assumption log 16). That a line is a record is the
model's (assumption log 18). -/
def Obligations.JobLineLoadsTheDescriptor : Prop :=
  (∀ (l : JobLine) (polls : Nat) (s : State) (rest : List Input), s.busy = false →
    s.inputs = l.inputs polls ++ rest →
    ∃ t, Steps l.writes.length s t ∧
      t = { s with
        inputs := .regWrite 0x64 4 1 :: (List.replicate polls (.regRead 0x68 4) ++ rest), desc := t.desc } ∧
      t.desc.ctrl = encode l.job ∧
      FmtHolds t.desc.fmt (l.a.map (·.surf)) (l.b.map (·.surf)) l.bits.toNat l.subs l.arr ∧
      t.desc.width = l.w ∧ t.desc.height = l.h ∧
      (l.a = none → t.desc.aPtr = s.desc.aPtr ∧ t.desc.aStride = s.desc.aStride) ∧
      (∀ k, l.a = some k → t.desc.aPtr = k.ptr ∧ t.desc.aStride = k.stride) ∧
      (l.b = none → t.desc.bPtr = s.desc.bPtr ∧ t.desc.bStride = s.desc.bStride) ∧
      (∀ k, l.b = some k → t.desc.bPtr = k.ptr ∧ t.desc.bStride = k.stride) ∧
      (l.y = none → t.desc.yPtr = s.desc.yPtr ∧ t.desc.yStride = s.desc.yStride) ∧
      (∀ k, l.y = some k → t.desc.yPtr = k.ptr ∧ t.desc.yStride = k.stride) ∧
      (l.u = none → t.desc.uPtr = s.desc.uPtr ∧ t.desc.uStride = s.desc.uStride) ∧
      (∀ k, l.u = some k → t.desc.uPtr = k.ptr ∧ t.desc.uStride = k.stride) ∧
      (l.v = none → t.desc.vPtr = s.desc.vPtr ∧ t.desc.vStride = s.desc.vStride) ∧
      (∀ k, l.v = some k → t.desc.vPtr = k.ptr ∧ t.desc.vStride = k.stride) ∧
      (l.m = none → t.desc.m0 = s.desc.m0 ∧ t.desc.m1 = s.desc.m1 ∧ t.desc.m2 = s.desc.m2 ∧ t.desc.m3 = s.desc.m3 ∧
        t.desc.m4 = s.desc.m4 ∧ t.desc.m5 = s.desc.m5 ∧ t.desc.m6 = s.desc.m6 ∧ t.desc.m7 = s.desc.m7 ∧
        t.desc.m8 = s.desc.m8) ∧
      (∀ c, l.m = some (.nine c) → MatrixHolds t.desc c) ∧
      ∀ kr kb, l.m = some (.krkb kr kb) → 0 < kr → 0 < kb → kr + kb < 1 →
        l.bits = 8 ∨ l.bits = 10 ∨ l.bits = 12 ∨ l.bits = 16 →
        ∀ model rot range tf,
          (l.job = .enc model rot range tf → MatrixHolds t.desc (formulaCoeffs true kr kb range l.bits.toNat)) ∧
          (l.job = .dec model rot range tf → MatrixHolds t.desc (formulaCoeffs false kr kb range l.bits.toNat))) ∧
  (∀ name : LayoutName, (name.subs, name.arr) = layoutTable name) ∧
  Preset.bt601.key = .krkb (299 / 1000) (114 / 1000) ∧ Preset.bt709.key = .krkb (2126 / 10000) (722 / 10000) ∧
  Preset.bt2020.key = .krkb (2627 / 10000) (593 / 10000) ∧
  formulaCoeffs true (299 / 1000) (114 / 1000) .tv 8 =
    ⟨16829, 33039, 6416, -9714, -19071, 28784, 28784, -24103, -4681⟩ ∧
  formulaCoeffs false (299 / 1000) (114 / 1000) .pc 8 =
    ⟨65536, 0, 91881, 65536, -22553, -46802, 65536, 116130, 0⟩ ∧
  formulaCoeffs true (2126 / 10000) (722 / 10000) .tv 10 =
    ⟨11931, 40136, 4052, -6576, -22124, 28700, 28700, -26068, -2632⟩ ∧
  formulaCoeffs false (2627 / 10000) (593 / 10000) .tv 16 =
    ⟨76607, 0, 110443, 76607, -12325, -42793, 76607, 140911, 0⟩
end

