-- ==== Sys2Proof/Laws/Memory.lean ====
section
/-! SUPPORT. The laws of memory: a read after a write, and every operation keeps the canonical form. -/

namespace Sys2Proof.Machine

theorem wfFrom_cons {lo k : Nat} {c : Byte} {rest : Memory} :
    Memory.wfFrom lo ((k, c) :: rest) = true ↔
      lo ≤ k ∧ k < addrLimit ∧ c ≠ unlistedByte ∧ Memory.wfFrom (k + 1) rest = true := by
  simp [Memory.wfFrom, and_assoc]

theorem wfFrom_mono {lo lo' : Nat} {m : Memory} (h : Memory.wfFrom lo' m = true) (hle : lo ≤ lo') :
    Memory.wfFrom lo m = true := by
  cases m with
  | nil => rfl
  | cons e rest =>
    obtain ⟨k, c⟩ := e
    rw [wfFrom_cons] at h ⊢
    exact ⟨hle.trans h.1, h.2⟩

/-- Below the first address of a canonical memory every byte is unlisted. -/
theorem getByte_of_lt {lo a : Nat} {m : Memory} (h : Memory.wfFrom lo m = true) (ha : a < lo) :
    m.getByte a = unlistedByte := by
  induction m generalizing lo with
  | nil => rfl
  | cons e rest ih =>
    obtain ⟨k, c⟩ := e
    rw [wfFrom_cons] at h
    rw [Memory.getByte, if_neg (by omega)]
    exact ih h.2.2.2 (by omega)

theorem wfFrom_insert {lo a : Nat} {b : Byte} {m : Memory} (h : Memory.wfFrom lo m = true) (hlo : lo ≤ a)
    (ha : a < addrLimit) : Memory.wfFrom lo (Memory.insert a b m) = true := by
  induction m generalizing lo with
  | nil =>
    rw [Memory.insert]
    split
    · rfl
    · exact wfFrom_cons.2 ⟨hlo, ha, ‹_›, rfl⟩
  | cons e rest ih =>
    obtain ⟨k, c⟩ := e
    have hc := wfFrom_cons.1 h
    rw [Memory.insert]
    split
    · split
      · exact h
      · exact wfFrom_cons.2 ⟨hlo, ha, ‹_›, wfFrom_cons.2 ⟨by omega, hc.2⟩⟩
    · split
      · split
        · exact wfFrom_mono hc.2.2.2 (by omega)
        · subst a; exact wfFrom_cons.2 ⟨hlo, ha, ‹_›, hc.2.2.2⟩
      · exact wfFrom_cons.2 ⟨hc.1, hc.2.1, hc.2.2.1, ih hc.2.2.2 (by omega)⟩

theorem getByte_insert {lo a x : Nat} {b : Byte} {m : Memory} (h : Memory.wfFrom lo m = true) :
    (Memory.insert a b m).getByte x = if x = a then b else m.getByte x := by
  induction m generalizing lo with
  | nil =>
    rw [Memory.insert]
    by_cases hx : x = a
    · subst hx
      rw [if_pos rfl]
      split
      · exact Eq.symm ‹_›
      · rw [Memory.getByte, if_pos rfl]
    · rw [if_neg hx]
      split
      · rfl
      · exact if_neg (Ne.symm hx)
  | cons e rest ih =>
    obtain ⟨k, c⟩ := e
    have hc := wfFrom_cons.1 h
    have hlt : ∀ y, y < k + 1 → Memory.getByte rest y = unlistedByte := fun y hy => getByte_of_lt hc.2.2.2 hy
    rw [Memory.insert]
    split
    · split
      · by_cases hx : x = a
        · subst hx
          rw [if_pos rfl, Memory.getByte, if_neg (by omega), hlt _ (by omega)]
          exact Eq.symm ‹_›
        · rw [if_neg hx]
      · by_cases hx : x = a
        · subst hx; rw [if_pos rfl, Memory.getByte, if_pos rfl]
        · rw [if_neg hx, Memory.getByte, if_neg (Ne.symm hx)]
    · split
      · subst a
        by_cases hx : x = k
        · subst hx
          rw [if_pos rfl]
          split
          · rw [hlt _ (by omega)]; exact Eq.symm ‹_›
          · rw [Memory.getByte, if_pos rfl]
        · rw [if_neg hx, Memory.getByte, if_neg (Ne.symm hx)]
          split
          · rfl
          · rw [Memory.getByte, if_neg (Ne.symm hx)]
      · rw [Memory.getByte, Memory.getByte, ih hc.2.2.2]
        by_cases hk : k = x
        · subst hk; rw [if_pos rfl, if_pos rfl, if_neg (by omega)]
        · rw [if_neg hk, if_neg hk]

/-- A byte write keeps the canonical form. -/
theorem wf_setByte {m : Memory} (h : m.wf = true) (a : Nat) (b : Byte) : (m.setByte a b).wf = true := by
  unfold Memory.setByte
  split
  · exact wfFrom_insert h (Nat.zero_le a) ‹_›
  · exact h

/-- What a byte reads as after a byte write. -/
theorem getByte_setByte {m : Memory} (h : m.wf = true) (a x : Nat) (b : Byte) :
    (m.setByte a b).getByte x = if x = a ∧ a < addrLimit then b else m.getByte x := by
  unfold Memory.setByte
  split
  · rw [getByte_insert h]; simp_all
  · rw [if_neg (by tauto)]

theorem wf_write {m : Memory} (h : m.wf = true) (a n v : Nat) : (m.write a n v).wf = true := by
  induction n generalizing m a v with
  | zero => exact h
  | succ n ih => exact ih (wf_setByte h _ _) _ _

/-- An element store leaves every byte outside the element alone. -/
theorem getByte_write_outside {m : Memory} (h : m.wf = true) {a n v x : Nat} (hx : ¬(a ≤ x ∧ x < a + n)) :
    (m.write a n v).getByte x = m.getByte x := by
  induction n generalizing m a v with
  | zero => rfl
  | succ n ih =>
    rw [Memory.write, ih (wf_setByte h _ _) (by omega), getByte_setByte h, if_neg (by omega)]

/-- The bytes of an element after its store: little-endian (20 R62). -/
theorem getByte_write_inside {m : Memory} (h : m.wf = true) {a n v i : Nat} (hi : i < n) (hlim : a + n ≤ addrLimit) :
    (m.write a n v).getByte (a + i) = BitVec.ofNat 8 (v / 256 ^ i) := by
  induction n generalizing m a v i with
  | zero => omega
  | succ n ih =>
    rw [Memory.write]
    cases i with
    | zero =>
      rw [getByte_write_outside (wf_setByte h _ _) (by omega), getByte_setByte h, if_pos (by constructor <;> omega)]
      simp
    | succ i =>
      have := ih (m := m.setByte a (BitVec.ofNat 8 v)) (a := a + 1) (v := v / 256) (i := i) (wf_setByte h _ _)
        (by omega) (by omega)
      rw [show a + (i + 1) = a + 1 + i by omega, this, Nat.div_div_eq_div_mul, pow_succ']

/-- Reading depends on the element's bytes only. -/
theorem read_congr {m m' : Memory} {a n : Nat} (h : ∀ x, a ≤ x → x < a + n → m.getByte x = m'.getByte x) :
    m.read a n = m'.read a n := by
  induction n generalizing a with
  | zero => rfl
  | succ n ih =>
    rw [Memory.read, Memory.read, h a (by omega) (by omega), ih (fun x h1 h2 => h x (by omega) (by omega))]

/-- An element reads below `256^n`. -/
theorem read_lt (m : Memory) (a n : Nat) : m.read a n < 256 ^ n := by
  induction n generalizing a with
  | zero => simp [Memory.read]
  | succ n ih =>
    have h1 := (m.getByte a).isLt
    have h2 := ih (a + 1)
    rw [Memory.read, pow_succ']
    omega

/-- A read after a store to the same element gives the low bytes of the value (20 R62). -/
theorem read_write_same {m : Memory} (h : m.wf = true) {a n v : Nat} (hlim : a + n ≤ addrLimit) :
    (m.write a n v).read a n = v % 256 ^ n := by
  induction n generalizing m a v with
  | zero => simp [Memory.read, Nat.mod_one]
  | succ n ih =>
    have h0 := getByte_write_inside h (v := v) (i := 0) (Nat.succ_pos n) hlim
    rw [Nat.add_zero, pow_zero, Nat.div_one] at h0
    rw [Memory.read, h0, Memory.write, ih (wf_setByte h _ _) (by omega), pow_succ', Nat.mod_mul]
    simp

/-- A store leaves an element that shares no byte with it alone. -/
theorem read_write_other {m : Memory} (h : m.wf = true) {a n v x k : Nat} (hd : a + n ≤ x ∨ x + k ≤ a) :
    (m.write a n v).read x k = m.read x k :=
  read_congr fun y _ _ => getByte_write_outside h (by omega)

theorem wf_applyStores {m : Memory} (h : m.wf = true) (sts : List Store) : (Memory.applyStores sts m).wf = true := by
  induction sts generalizing m with
  | nil => exact h
  | cons st rest ih => exact ih (wf_write h _ _ _)

/-- Stores leave every byte outside their elements alone. -/
theorem getByte_applyStores_outside {m : Memory} (h : m.wf = true) {sts : List Store} {a : Nat}
    (ha : ∀ st ∈ sts, ¬st.elem.covers a) : (Memory.applyStores sts m).getByte a = m.getByte a := by
  induction sts generalizing m with
  | nil => rfl
  | cons st rest ih =>
    rw [Memory.applyStores, ih (wf_write h _ _ _) fun s hs => ha s (List.mem_cons_of_mem _ hs),
      getByte_write_outside h]
    exact ha st List.mem_cons_self

/-- Two elements share no byte. -/
def Elem.apart (e f : Elem) : Prop := e.addr + e.size ≤ f.addr ∨ f.addr + f.size ≤ e.addr

/-- Stores leave an element that is apart from all of theirs alone. -/
theorem sample_applyStores_other {m : Memory} (h : m.wf = true) {sts : List Store} {x k : Nat}
    (hd : ∀ st ∈ sts, st.elem.addr + st.elem.size ≤ x ∨ x + k ≤ st.elem.addr) :
    (Memory.applyStores sts m).read x k = m.read x k :=
  read_congr fun y hy1 hy2 => getByte_applyStores_outside h fun st hst => by
    have := hd st hst
    unfold Elem.covers
    omega

/-- After stores to elements pairwise apart, each element reads its value. -/
theorem sample_applyStores {m : Memory} (h : m.wf = true) {sts : List Store}
    (hp : sts.Pairwise fun s t => s.elem.apart t.elem) (hlim : ∀ st ∈ sts, st.elem.addr + st.elem.size ≤ addrLimit)
    {st : Store} (hst : st ∈ sts) :
    (Memory.applyStores sts m).read st.elem.addr st.elem.size = st.val % 256 ^ st.elem.size := by
  induction sts generalizing m with
  | nil => cases hst
  | cons s rest ih =>
    rw [List.pairwise_cons] at hp
    rw [Memory.applyStores]
    rcases List.mem_cons.1 hst with rfl | hin
    · rw [sample_applyStores_other (wf_write h _ _ _), read_write_same h (hlim _ List.mem_cons_self)]
      intro t ht
      exact (hp.1 t ht).symm
    · exact ih (wf_write h _ _ _) hp.2 (fun t ht => hlim t (List.mem_cons_of_mem _ ht)) hin

end Sys2Proof.Machine
end

