-- ==== Sys2Proof/Laws/State.lean ====
section
/-! SUPPORT. One lemma per field per update of the state, each true by unfolding. -/

namespace Sys2Proof.Machine

@[simp] theorem ackStatus_cfg (v : Word) (s : State) : (ackStatus v s).cfg = s.cfg := rfl
@[simp] theorem ackStatus_desc (v : Word) (s : State) : (ackStatus v s).desc = s.desc := rfl
@[simp] theorem ackStatus_busy (v : Word) (s : State) : (ackStatus v s).busy = s.busy := rfl
@[simp] theorem ackStatus_done (v : Word) (s : State) : (ackStatus v s).done = (s.done && !v.getLsbD 1) := rfl
@[simp] theorem ackStatus_err (v : Word) (s : State) : (ackStatus v s).err = (s.err && !v.getLsbD 2) := rfl
@[simp] theorem ackStatus_errCode (v : Word) (s : State) : (ackStatus v s).errCode = s.errCode := rfl
@[simp] theorem ackStatus_errInfo (v : Word) (s : State) : (ackStatus v s).errInfo = s.errInfo := rfl
@[simp] theorem ackStatus_irqEn (v : Word) (s : State) : (ackStatus v s).irqEn = s.irqEn := rfl
@[simp] theorem ackStatus_rowPos (v : Word) (s : State) : (ackStatus v s).rowPos = s.rowPos := rfl
@[simp] theorem ackStatus_mem (v : Word) (s : State) : (ackStatus v s).mem = s.mem := rfl
@[simp] theorem ackStatus_owned (v : Word) (s : State) : (ackStatus v s).owned = s.owned := rfl
@[simp] theorem ackStatus_inputs (v : Word) (s : State) : (ackStatus v s).inputs = s.inputs := rfl
@[simp] theorem ackStatus_readData (v : Word) (s : State) : (ackStatus v s).readData = s.readData := rfl
@[simp] theorem ackStatus_memData (v : Word) (s : State) : (ackStatus v s).memData = s.memData := rfl
@[simp] theorem ackStatus_freeIx (v : Word) (s : State) : (ackStatus v s).freeIx = s.freeIx := rfl

@[simp] theorem startClear_cfg (s : State) : (startClear s).cfg = s.cfg := rfl
@[simp] theorem startClear_desc (s : State) : (startClear s).desc = s.desc := rfl
@[simp] theorem startClear_busy (s : State) : (startClear s).busy = s.busy := rfl
@[simp] theorem startClear_done (s : State) : (startClear s).done = false := rfl
@[simp] theorem startClear_err (s : State) : (startClear s).err = false := rfl
@[simp] theorem startClear_errCode (s : State) : (startClear s).errCode = s.errCode := rfl
@[simp] theorem startClear_errInfo (s : State) : (startClear s).errInfo = s.errInfo := rfl
@[simp] theorem startClear_irqEn (s : State) : (startClear s).irqEn = s.irqEn := rfl
@[simp] theorem startClear_rowPos (s : State) : (startClear s).rowPos = 0 := rfl
@[simp] theorem startClear_mem (s : State) : (startClear s).mem = s.mem := rfl
@[simp] theorem startClear_owned (s : State) : (startClear s).owned = s.owned := rfl
@[simp] theorem startClear_inputs (s : State) : (startClear s).inputs = s.inputs := rfl
@[simp] theorem startClear_readData (s : State) : (startClear s).readData = s.readData := rfl
@[simp] theorem startClear_memData (s : State) : (startClear s).memData = s.memData := rfl
@[simp] theorem startClear_freeIx (s : State) : (startClear s).freeIx = s.freeIx := rfl

@[simp] theorem raiseRefusal_cfg (r : Refused) (s : State) : (raiseRefusal r s).cfg = s.cfg := rfl
@[simp] theorem raiseRefusal_desc (r : Refused) (s : State) : (raiseRefusal r s).desc = s.desc := rfl
@[simp] theorem raiseRefusal_busy (r : Refused) (s : State) : (raiseRefusal r s).busy = s.busy := rfl
@[simp] theorem raiseRefusal_done (r : Refused) (s : State) : (raiseRefusal r s).done = s.done := rfl
@[simp] theorem raiseRefusal_err (r : Refused) (s : State) : (raiseRefusal r s).err = true := rfl
@[simp] theorem raiseRefusal_errCode (r : Refused) (s : State) : (raiseRefusal r s).errCode = r.code := rfl
@[simp] theorem raiseRefusal_errInfo (r : Refused) (s : State) : (raiseRefusal r s).errInfo = BitVec.ofNat 8 r.reg.offset := rfl
@[simp] theorem raiseRefusal_irqEn (r : Refused) (s : State) : (raiseRefusal r s).irqEn = s.irqEn := rfl
@[simp] theorem raiseRefusal_rowPos (r : Refused) (s : State) : (raiseRefusal r s).rowPos = s.rowPos := rfl
@[simp] theorem raiseRefusal_mem (r : Refused) (s : State) : (raiseRefusal r s).mem = s.mem := rfl
@[simp] theorem raiseRefusal_owned (r : Refused) (s : State) : (raiseRefusal r s).owned = s.owned := rfl
@[simp] theorem raiseRefusal_inputs (r : Refused) (s : State) : (raiseRefusal r s).inputs = s.inputs := rfl
@[simp] theorem raiseRefusal_readData (r : Refused) (s : State) : (raiseRefusal r s).readData = s.readData := rfl
@[simp] theorem raiseRefusal_memData (r : Refused) (s : State) : (raiseRefusal r s).memData = s.memData := rfl
@[simp] theorem raiseRefusal_freeIx (r : Refused) (s : State) : (raiseRefusal r s).freeIx = s.freeIx := rfl

@[simp] theorem acceptJob_cfg (job : Job) (s : State) : (acceptJob job s).cfg = s.cfg := rfl
@[simp] theorem acceptJob_desc (job : Job) (s : State) : (acceptJob job s).desc = s.desc := rfl
@[simp] theorem acceptJob_busy (job : Job) (s : State) : (acceptJob job s).busy = true := rfl
@[simp] theorem acceptJob_done (job : Job) (s : State) : (acceptJob job s).done = false := rfl
@[simp] theorem acceptJob_err (job : Job) (s : State) : (acceptJob job s).err = false := rfl
@[simp] theorem acceptJob_errCode (job : Job) (s : State) : (acceptJob job s).errCode = .none := rfl
@[simp] theorem acceptJob_errInfo (job : Job) (s : State) : (acceptJob job s).errInfo = 0 := rfl
@[simp] theorem acceptJob_irqEn (job : Job) (s : State) : (acceptJob job s).irqEn = s.irqEn := rfl
@[simp] theorem acceptJob_rowPos (job : Job) (s : State) : (acceptJob job s).rowPos = 0 := rfl
@[simp] theorem acceptJob_mem (job : Job) (s : State) : (acceptJob job s).mem = s.mem := rfl
@[simp] theorem acceptJob_owned (job : Job) (s : State) : (acceptJob job s).owned = ⟨job, false⟩ :: s.owned := rfl
@[simp] theorem acceptJob_inputs (job : Job) (s : State) : (acceptJob job s).inputs = s.inputs := rfl
@[simp] theorem acceptJob_readData (job : Job) (s : State) : (acceptJob job s).readData = s.readData := rfl
@[simp] theorem acceptJob_memData (job : Job) (s : State) : (acceptJob job s).memData = s.memData := rfl
@[simp] theorem acceptJob_freeIx (job : Job) (s : State) : (acceptJob job s).freeIx = s.freeIx := rfl

@[simp] theorem resetRegs_cfg (s : State) : (resetRegs s).cfg = s.cfg := rfl
@[simp] theorem resetRegs_desc (s : State) : (resetRegs s).desc = Desc.zero := rfl
@[simp] theorem resetRegs_busy (s : State) : (resetRegs s).busy = false := rfl
@[simp] theorem resetRegs_done (s : State) : (resetRegs s).done = false := rfl
@[simp] theorem resetRegs_err (s : State) : (resetRegs s).err = false := rfl
@[simp] theorem resetRegs_errCode (s : State) : (resetRegs s).errCode = .none := rfl
@[simp] theorem resetRegs_errInfo (s : State) : (resetRegs s).errInfo = 0 := rfl
@[simp] theorem resetRegs_irqEn (s : State) : (resetRegs s).irqEn = 0 := rfl
@[simp] theorem resetRegs_rowPos (s : State) : (resetRegs s).rowPos = 0 := rfl
@[simp] theorem resetRegs_mem (s : State) : (resetRegs s).mem = s.mem := rfl
@[simp] theorem resetRegs_owned (s : State) : (resetRegs s).owned = [] := rfl
@[simp] theorem resetRegs_inputs (s : State) : (resetRegs s).inputs = s.inputs := rfl
@[simp] theorem resetRegs_readData (s : State) : (resetRegs s).readData = s.readData := rfl
@[simp] theorem resetRegs_memData (s : State) : (resetRegs s).memData = s.memData := rfl
@[simp] theorem resetRegs_freeIx (s : State) : (resetRegs s).freeIx = s.freeIx := rfl

@[simp] theorem withFetchWord_cfg (s : State) (n w : Nat) : (s.withFetchWord n w).cfg = s.cfg := rfl
@[simp] theorem withFetchWord_desc (s : State) (n w : Nat) : (s.withFetchWord n w).desc = { s.desc with ctrl := BitVec.ofNat 32 w } := rfl
@[simp] theorem withFetchWord_busy (s : State) (n w : Nat) : (s.withFetchWord n w).busy = false := rfl
@[simp] theorem withFetchWord_done (s : State) (n w : Nat) : (s.withFetchWord n w).done = s.done := rfl
@[simp] theorem withFetchWord_err (s : State) (n w : Nat) : (s.withFetchWord n w).err = s.err := rfl
@[simp] theorem withFetchWord_errCode (s : State) (n w : Nat) : (s.withFetchWord n w).errCode = s.errCode := rfl
@[simp] theorem withFetchWord_errInfo (s : State) (n w : Nat) : (s.withFetchWord n w).errInfo = s.errInfo := rfl
@[simp] theorem withFetchWord_irqEn (s : State) (n w : Nat) : (s.withFetchWord n w).irqEn = s.irqEn := rfl
@[simp] theorem withFetchWord_rowPos (s : State) (n w : Nat) : (s.withFetchWord n w).rowPos = s.rowPos := rfl
@[simp] theorem withFetchWord_mem (s : State) (n w : Nat) : (s.withFetchWord n w).mem = s.mem := rfl
@[simp] theorem withFetchWord_owned (s : State) (n w : Nat) : (s.withFetchWord n w).owned = s.owned := rfl
@[simp] theorem withFetchWord_inputs (s : State) (n w : Nat) : (s.withFetchWord n w).inputs = startInput :: s.inputs := rfl
@[simp] theorem withFetchWord_readData (s : State) (n w : Nat) : (s.withFetchWord n w).readData = s.readData := rfl
@[simp] theorem withFetchWord_memData (s : State) (n w : Nat) : (s.withFetchWord n w).memData = s.memData := rfl
@[simp] theorem withFetchWord_freeIx (s : State) (n w : Nat) : (s.withFetchWord n w).freeIx = s.freeIx := rfl

@[simp] theorem finishBand_cfg (job : Job) (s : State) : (finishBand job s).cfg = s.cfg := by
  unfold finishBand
  split <;> rfl

@[simp] theorem finishBand_desc (job : Job) (s : State) : (finishBand job s).desc = s.desc := by
  unfold finishBand
  split <;> rfl

theorem finishBand_busy (job : Job) (s : State) :
    (finishBand job s).busy = if s.rowPos.toNat + 1 = job.nbands then false else s.busy := by
  unfold finishBand
  split <;> rfl

theorem finishBand_done (job : Job) (s : State) :
    (finishBand job s).done = if s.rowPos.toNat + 1 = job.nbands then true else s.done := by
  unfold finishBand
  split <;> rfl

@[simp] theorem finishBand_err (job : Job) (s : State) : (finishBand job s).err = s.err := by
  unfold finishBand
  split <;> rfl

@[simp] theorem finishBand_errCode (job : Job) (s : State) : (finishBand job s).errCode = s.errCode := by
  unfold finishBand
  split <;> rfl

@[simp] theorem finishBand_errInfo (job : Job) (s : State) : (finishBand job s).errInfo = s.errInfo := by
  unfold finishBand
  split <;> rfl

@[simp] theorem finishBand_irqEn (job : Job) (s : State) : (finishBand job s).irqEn = s.irqEn := by
  unfold finishBand
  split <;> rfl

@[simp] theorem finishBand_rowPos (job : Job) (s : State) : (finishBand job s).rowPos = s.rowPos + 1 := by
  unfold finishBand
  split <;> rfl

@[simp] theorem finishBand_mem (job : Job) (s : State) : (finishBand job s).mem = s.mem := by
  unfold finishBand
  split <;> rfl

@[simp] theorem finishBand_owned (job : Job) (s : State) : (finishBand job s).owned = s.owned := by
  unfold finishBand
  split <;> rfl

@[simp] theorem finishBand_inputs (job : Job) (s : State) : (finishBand job s).inputs = s.inputs := by
  unfold finishBand
  split <;> rfl

@[simp] theorem finishBand_readData (job : Job) (s : State) : (finishBand job s).readData = s.readData := by
  unfold finishBand
  split <;> rfl

@[simp] theorem finishBand_memData (job : Job) (s : State) : (finishBand job s).memData = s.memData := by
  unfold finishBand
  split <;> rfl

@[simp] theorem finishBand_freeIx (job : Job) (s : State) : (finishBand job s).freeIx = s.freeIx := by
  unfold finishBand
  split <;> rfl

@[simp] theorem havocBytes_cfg (as : List Nat) (s : State) : (havocBytes as s).cfg = s.cfg := by
  induction as generalizing s with
  | nil => rfl
  | cons a rest ih => rw [havocBytes, ih]

@[simp] theorem havocElems_cfg (es : List Elem) (s : State) : (havocElems es s).cfg = s.cfg :=
  havocBytes_cfg _ s

@[simp] theorem havocJob_cfg (job : Job) (s : State) : (havocJob job s).cfg = s.cfg :=
  havocElems_cfg _ s

@[simp] theorem abandonJob_cfg (s : State) : (abandonJob s).cfg = s.cfg := by
  unfold abandonJob
  split
  · split <;> simp
  · rfl

@[simp] theorem writeBand_cfg (sts : List Store) (es : List Elem) (s : State) :
    (writeBand sts es s).cfg = s.cfg := by
  unfold writeBand
  split <;> simp

@[simp] theorem havocBytes_desc (as : List Nat) (s : State) : (havocBytes as s).desc = s.desc := by
  induction as generalizing s with
  | nil => rfl
  | cons a rest ih => rw [havocBytes, ih]

@[simp] theorem havocElems_desc (es : List Elem) (s : State) : (havocElems es s).desc = s.desc :=
  havocBytes_desc _ s

@[simp] theorem havocJob_desc (job : Job) (s : State) : (havocJob job s).desc = s.desc :=
  havocElems_desc _ s

@[simp] theorem abandonJob_desc (s : State) : (abandonJob s).desc = s.desc := by
  unfold abandonJob
  split
  · split <;> simp
  · rfl

@[simp] theorem writeBand_desc (sts : List Store) (es : List Elem) (s : State) :
    (writeBand sts es s).desc = s.desc := by
  unfold writeBand
  split <;> simp

@[simp] theorem havocBytes_busy (as : List Nat) (s : State) : (havocBytes as s).busy = s.busy := by
  induction as generalizing s with
  | nil => rfl
  | cons a rest ih => rw [havocBytes, ih]

@[simp] theorem havocElems_busy (es : List Elem) (s : State) : (havocElems es s).busy = s.busy :=
  havocBytes_busy _ s

@[simp] theorem havocJob_busy (job : Job) (s : State) : (havocJob job s).busy = s.busy :=
  havocElems_busy _ s

@[simp] theorem abandonJob_busy (s : State) : (abandonJob s).busy = s.busy := by
  unfold abandonJob
  split
  · split <;> simp
  · rfl

@[simp] theorem writeBand_busy (sts : List Store) (es : List Elem) (s : State) :
    (writeBand sts es s).busy = s.busy := by
  unfold writeBand
  split <;> simp

@[simp] theorem havocBytes_done (as : List Nat) (s : State) : (havocBytes as s).done = s.done := by
  induction as generalizing s with
  | nil => rfl
  | cons a rest ih => rw [havocBytes, ih]

@[simp] theorem havocElems_done (es : List Elem) (s : State) : (havocElems es s).done = s.done :=
  havocBytes_done _ s

@[simp] theorem havocJob_done (job : Job) (s : State) : (havocJob job s).done = s.done :=
  havocElems_done _ s

@[simp] theorem abandonJob_done (s : State) : (abandonJob s).done = s.done := by
  unfold abandonJob
  split
  · split <;> simp
  · rfl

@[simp] theorem writeBand_done (sts : List Store) (es : List Elem) (s : State) :
    (writeBand sts es s).done = s.done := by
  unfold writeBand
  split <;> simp

@[simp] theorem havocBytes_err (as : List Nat) (s : State) : (havocBytes as s).err = s.err := by
  induction as generalizing s with
  | nil => rfl
  | cons a rest ih => rw [havocBytes, ih]

@[simp] theorem havocElems_err (es : List Elem) (s : State) : (havocElems es s).err = s.err :=
  havocBytes_err _ s

@[simp] theorem havocJob_err (job : Job) (s : State) : (havocJob job s).err = s.err :=
  havocElems_err _ s

@[simp] theorem abandonJob_err (s : State) : (abandonJob s).err = s.err := by
  unfold abandonJob
  split
  · split <;> simp
  · rfl

@[simp] theorem writeBand_err (sts : List Store) (es : List Elem) (s : State) :
    (writeBand sts es s).err = s.err := by
  unfold writeBand
  split <;> simp

@[simp] theorem havocBytes_errCode (as : List Nat) (s : State) : (havocBytes as s).errCode = s.errCode := by
  induction as generalizing s with
  | nil => rfl
  | cons a rest ih => rw [havocBytes, ih]

@[simp] theorem havocElems_errCode (es : List Elem) (s : State) : (havocElems es s).errCode = s.errCode :=
  havocBytes_errCode _ s

@[simp] theorem havocJob_errCode (job : Job) (s : State) : (havocJob job s).errCode = s.errCode :=
  havocElems_errCode _ s

@[simp] theorem abandonJob_errCode (s : State) : (abandonJob s).errCode = s.errCode := by
  unfold abandonJob
  split
  · split <;> simp
  · rfl

@[simp] theorem writeBand_errCode (sts : List Store) (es : List Elem) (s : State) :
    (writeBand sts es s).errCode = s.errCode := by
  unfold writeBand
  split <;> simp

@[simp] theorem havocBytes_errInfo (as : List Nat) (s : State) : (havocBytes as s).errInfo = s.errInfo := by
  induction as generalizing s with
  | nil => rfl
  | cons a rest ih => rw [havocBytes, ih]

@[simp] theorem havocElems_errInfo (es : List Elem) (s : State) : (havocElems es s).errInfo = s.errInfo :=
  havocBytes_errInfo _ s

@[simp] theorem havocJob_errInfo (job : Job) (s : State) : (havocJob job s).errInfo = s.errInfo :=
  havocElems_errInfo _ s

@[simp] theorem abandonJob_errInfo (s : State) : (abandonJob s).errInfo = s.errInfo := by
  unfold abandonJob
  split
  · split <;> simp
  · rfl

@[simp] theorem writeBand_errInfo (sts : List Store) (es : List Elem) (s : State) :
    (writeBand sts es s).errInfo = s.errInfo := by
  unfold writeBand
  split <;> simp

@[simp] theorem havocBytes_irqEn (as : List Nat) (s : State) : (havocBytes as s).irqEn = s.irqEn := by
  induction as generalizing s with
  | nil => rfl
  | cons a rest ih => rw [havocBytes, ih]

@[simp] theorem havocElems_irqEn (es : List Elem) (s : State) : (havocElems es s).irqEn = s.irqEn :=
  havocBytes_irqEn _ s

@[simp] theorem havocJob_irqEn (job : Job) (s : State) : (havocJob job s).irqEn = s.irqEn :=
  havocElems_irqEn _ s

@[simp] theorem abandonJob_irqEn (s : State) : (abandonJob s).irqEn = s.irqEn := by
  unfold abandonJob
  split
  · split <;> simp
  · rfl

@[simp] theorem writeBand_irqEn (sts : List Store) (es : List Elem) (s : State) :
    (writeBand sts es s).irqEn = s.irqEn := by
  unfold writeBand
  split <;> simp

@[simp] theorem havocBytes_rowPos (as : List Nat) (s : State) : (havocBytes as s).rowPos = s.rowPos := by
  induction as generalizing s with
  | nil => rfl
  | cons a rest ih => rw [havocBytes, ih]

@[simp] theorem havocElems_rowPos (es : List Elem) (s : State) : (havocElems es s).rowPos = s.rowPos :=
  havocBytes_rowPos _ s

@[simp] theorem havocJob_rowPos (job : Job) (s : State) : (havocJob job s).rowPos = s.rowPos :=
  havocElems_rowPos _ s

@[simp] theorem abandonJob_rowPos (s : State) : (abandonJob s).rowPos = s.rowPos := by
  unfold abandonJob
  split
  · split <;> simp
  · rfl

@[simp] theorem writeBand_rowPos (sts : List Store) (es : List Elem) (s : State) :
    (writeBand sts es s).rowPos = s.rowPos := by
  unfold writeBand
  split <;> simp

@[simp] theorem havocBytes_owned (as : List Nat) (s : State) : (havocBytes as s).owned = s.owned := by
  induction as generalizing s with
  | nil => rfl
  | cons a rest ih => rw [havocBytes, ih]

@[simp] theorem havocElems_owned (es : List Elem) (s : State) : (havocElems es s).owned = s.owned :=
  havocBytes_owned _ s

@[simp] theorem havocJob_owned (job : Job) (s : State) : (havocJob job s).owned = s.owned :=
  havocElems_owned _ s

@[simp] theorem abandonJob_owned (s : State) : (abandonJob s).owned = s.owned := by
  unfold abandonJob
  split
  · split <;> simp
  · rfl

@[simp] theorem writeBand_owned (sts : List Store) (es : List Elem) (s : State) :
    (writeBand sts es s).owned = s.owned := by
  unfold writeBand
  split <;> simp

@[simp] theorem havocBytes_inputs (as : List Nat) (s : State) : (havocBytes as s).inputs = s.inputs := by
  induction as generalizing s with
  | nil => rfl
  | cons a rest ih => rw [havocBytes, ih]

@[simp] theorem havocElems_inputs (es : List Elem) (s : State) : (havocElems es s).inputs = s.inputs :=
  havocBytes_inputs _ s

@[simp] theorem havocJob_inputs (job : Job) (s : State) : (havocJob job s).inputs = s.inputs :=
  havocElems_inputs _ s

@[simp] theorem abandonJob_inputs (s : State) : (abandonJob s).inputs = s.inputs := by
  unfold abandonJob
  split
  · split <;> simp
  · rfl

@[simp] theorem writeBand_inputs (sts : List Store) (es : List Elem) (s : State) :
    (writeBand sts es s).inputs = s.inputs := by
  unfold writeBand
  split <;> simp

@[simp] theorem havocBytes_readData (as : List Nat) (s : State) : (havocBytes as s).readData = s.readData := by
  induction as generalizing s with
  | nil => rfl
  | cons a rest ih => rw [havocBytes, ih]

@[simp] theorem havocElems_readData (es : List Elem) (s : State) : (havocElems es s).readData = s.readData :=
  havocBytes_readData _ s

@[simp] theorem havocJob_readData (job : Job) (s : State) : (havocJob job s).readData = s.readData :=
  havocElems_readData _ s

@[simp] theorem abandonJob_readData (s : State) : (abandonJob s).readData = s.readData := by
  unfold abandonJob
  split
  · split <;> simp
  · rfl

@[simp] theorem writeBand_readData (sts : List Store) (es : List Elem) (s : State) :
    (writeBand sts es s).readData = s.readData := by
  unfold writeBand
  split <;> simp

@[simp] theorem havocBytes_memData (as : List Nat) (s : State) : (havocBytes as s).memData = s.memData := by
  induction as generalizing s with
  | nil => rfl
  | cons a rest ih => rw [havocBytes, ih]

@[simp] theorem havocElems_memData (es : List Elem) (s : State) : (havocElems es s).memData = s.memData :=
  havocBytes_memData _ s

@[simp] theorem havocJob_memData (job : Job) (s : State) : (havocJob job s).memData = s.memData :=
  havocElems_memData _ s

@[simp] theorem abandonJob_memData (s : State) : (abandonJob s).memData = s.memData := by
  unfold abandonJob
  split
  · split <;> simp
  · rfl

@[simp] theorem writeBand_memData (sts : List Store) (es : List Elem) (s : State) :
    (writeBand sts es s).memData = s.memData := by
  unfold writeBand
  split <;> simp

end Sys2Proof.Machine
end

