-- ==== Sys2Proof/Laws/Ops.lean ====
section
/-! SUPPORT. For each shared operation, once, all that it can do. -/

namespace Sys2Proof.Machine

/-- The bands of each instruction (44 R252 to R254). -/
def bandOf : Instr → Job → Memory → Nat → List Store
  | .enc _ _ _ _ => encBand
  | .dec _ _ _ _ => decBand
  | .widenD => widenBand
  | .widen10 => widenBand
  | .widen12 => widenBand
  | .widen16 => widenBand
  | .narrowD => narrowBand
  | .narrow10 => narrowBand
  | .narrow12 => narrowBand
  | .narrow16 => narrowBand
  | .perm => permBand
  | .u2h => u2hBand
  | .h2u => h2uBand

/-- Every meaning is the shared operation over the instruction's own band. -/
theorem exec_eq_runJob (i : Instr) (s : State) : exec i s = runJob i (bandOf i) s := by
  cases i <;> rfl

theorem firstOf_eq_none {l : List (Option Refused)} : firstOf l = none ↔ ∀ o ∈ l, o = none := by
  induction l with
  | nil => simp [firstOf]
  | cons o rest ih => cases o <;> simp [firstOf, ih]

theorem firstOf_eq_some {l : List (Option Refused)} {r : Refused} (h : firstOf l = some r) : some r ∈ l := by
  induction l with
  | nil => simp [firstOf] at h
  | cons o rest ih =>
    cases o with
    | none => exact List.mem_cons_of_mem _ (ih h)
    | some q => simp only [firstOf, Option.some.injEq] at h; subst h; exact List.mem_cons_self

/-- A descriptor is accepted exactly when the encoding checks give a job and no other check fails. -/
theorem resolve_eq_ok {i : Instr} {c : Config} {d : Desc} {job : Job} :
    resolve i c d = .ok job ↔ decodeJob i c d = .ok job ∧ checkJob c job = none := by
  unfold resolve
  cases h : decodeJob i c d with
  | error r => simp
  | ok j =>
    simp only
    cases hc : checkJob c j with
    | none => simp only [Except.ok.injEq]; constructor
              · rintro rfl; exact ⟨rfl, hc⟩
              · exact fun h => h.1
    | some r =>
      simp only [reduceCtorEq, Except.ok.injEq, false_iff]
      rintro ⟨rfl, h2⟩
      rw [hc] at h2
      cases h2

/-- What the checks d to i of 60 R293 come to when none fails. -/
theorem checkJob_eq_none {c : Config} {job : Job} (h : checkJob c job = none) :
    dimCheck c job = none ∧ ∀ p ∈ job.planes, nullCheck p = none ∧ alignCheck p = none ∧ strideCheck p = none ∧
      rangeCheck p = none ∧ overlapCheck job.planes p = none := by
  simp only [checkJob, firstOf_eq_none, List.mem_cons, List.not_mem_nil, or_false, forall_eq_or_imp, forall_eq,
    List.mem_map, forall_exists_index, and_imp, forall_apply_eq_imp_iff₂] at h
  exact ⟨h.1, fun p hp => ⟨h.2.1 p hp, h.2.2.1 p hp, h.2.2.2.1 p hp, h.2.2.2.2.1 p hp, h.2.2.2.2.2 p hp⟩⟩

/-- A plane that passes every check lies inside memory, starts above 0, is aligned, and has room for its rows. -/
theorem planeFacts {c : Config} {job : Job} (h : checkJob c job = none) {p : Plane} (hp : p ∈ job.planes) :
    p.ptr ≠ 0 ∧ p.ptr % p.align = 0 ∧ p.stride % p.align = 0 ∧ p.rowBytes ≤ p.stride ∧ p.hi ≤ addrLimit := by
  have hc := (checkJob_eq_none h).2 p hp
  obtain ⟨hn, ha, hs, hr, -⟩ := hc
  simp only [nullCheck, alignCheck, strideCheck, rangeCheck, ite_eq_right_iff, reduceCtorEq, imp_false, not_lt] at hn ha hs hr
  refine ⟨hn, ?_, ?_, hs, hr⟩
  · by_contra hh; rw [if_pos hh] at ha; cases ha
  · by_contra hh
    simp only [ne_eq, hh, not_false_eq_true, if_true] at ha
    split at ha <;> cases ha

/-- What a launch does: a refusal that names the failing check, or acceptance. -/
theorem launch_cases (i : Instr) (s : State) :
    (∃ r, resolve i s.cfg s.desc = .error r ∧ launch i s = raiseRefusal r (startClear s)) ∨
    (∃ job, resolve i s.cfg s.desc = .ok job ∧ launch i s = acceptJob job (startClear s)) := by
  unfold launch
  cases resolve i s.cfg s.desc with
  | error r => exact .inl ⟨r, rfl, rfl⟩
  | ok job => exact .inr ⟨job, rfl, rfl⟩

/-- What a band step does when it answers a next state. -/
theorem bandStep_next {i : Instr} {band : Job → Memory → Nat → List Store} {s t : State}
    (h : bandStep i band s = .next t) :
    ∃ job, resolve i s.cfg s.desc = .ok job ∧ s.rowPos.toNat < job.nbands ∧
      t = finishBand job (writeBand (band job s.mem s.rowPos.toNat) (job.bandElems s.rowPos.toNat) s) := by
  unfold bandStep at h
  cases hr : resolve i s.cfg s.desc with
  | error r => rw [hr] at h; cases h
  | ok job =>
    rw [hr] at h
    simp only at h
    split at h
    · exact ⟨job, rfl, ‹_›, (Host.Outcome.next.inj h).symm⟩
    · cases h

/-- A band step of a legal job whose ROWPOS is below NBANDS answers a next state. -/
theorem bandStep_eq {i : Instr} {band : Job → Memory → Nat → List Store} {s : State} {job : Job}
    (hr : resolve i s.cfg s.desc = .ok job) (hj : s.rowPos.toNat < job.nbands) :
    bandStep i band s =
      .next (finishBand job (writeBand (band job s.mem s.rowPos.toNat) (job.bandElems s.rowPos.toNat) s)) := by
  unfold bandStep
  rw [hr]
  simp only [if_pos hj]

/-- What an instruction does when it answers a next state: a launch while idle, a band while BUSY. -/
theorem exec_next {i : Instr} {s t : State} (h : exec i s = .next t) :
    (s.busy = false ∧ t = launch i s) ∨
    (s.busy = true ∧ ∃ job, resolve i s.cfg s.desc = .ok job ∧ s.rowPos.toNat < job.nbands ∧
      t = finishBand job (writeBand (bandOf i job s.mem s.rowPos.toNat) (job.bandElems s.rowPos.toNat) s)) := by
  rw [exec_eq_runJob, runJob] at h
  cases hb : s.busy with
  | false => rw [hb] at h; exact .inl ⟨rfl, (Host.Outcome.next.inj h).symm⟩
  | true =>
    rw [hb] at h
    simp only [if_true] at h
    exact .inr ⟨rfl, bandStep_next h⟩

/-- What a step does when it answers a next state. -/
theorem step_next {s t : State} (h : step s = .next t) :
    nextTurn s = .settled t ∨
    (∃ u i, nextTurn s = .job u ∧ decode u.desc.ctrl = .ok i ∧ exec i u = .next t) ∨
    (∃ u e, nextTurn s = .job u ∧ decode u.desc.ctrl = .error e ∧ u.busy = false ∧ t = launchIllegal u) := by
  unfold step at h
  cases hn : nextTurn s with
  | settled u => rw [hn] at h; cases h; exact .inl rfl
  | badAccess => rw [hn] at h; cases h
  | job u =>
    rw [hn] at h
    simp only at h
    cases hd : decode u.desc.ctrl with
    | ok i => rw [hd] at h; exact .inr (.inl ⟨u, i, rfl, hd, h⟩)
    | error e =>
      rw [hd] at h
      simp only [illegalTurn] at h
      split at h
      · cases h
      · rename_i hb
        exact .inr (.inr ⟨u, e, rfl, hd, by simpa using hb, (Host.Outcome.next.inj h).symm⟩)

/-- A turn goes to the engine's job either because the engine is busy and it is its turn, or at a START. -/
theorem nextTurn_job {s u : State} (h : nextTurn s = .job u) :
    (s.inputs = [] ∧ u = s ∧ s.busy = true) ∨
    (∃ rest, s.inputs = .engineTurn :: rest ∧ u = { s with inputs := rest } ∧ s.busy = true) ∨
    (∃ off size v rest, s.inputs = .regWrite off size v :: rest ∧ Reg.ofAccess off size = some .start ∧
      v.getLsbD 0 = true ∧ s.busy = false ∧ u = { s with inputs := rest }) := by
  unfold nextTurn at h
  cases hi : s.inputs with
  | nil =>
    rw [hi] at h
    simp only [engineTurn] at h
    split at h
    · cases h; exact .inl ⟨rfl, rfl, ‹_›⟩
    · cases h
  | cons e rest =>
    rw [hi] at h
    cases e with
    | regWrite off size v =>
      simp only [takeInput] at h
      split at h
      · rename_i r hr
        simp only [portWrite] at h
        split at h
        · rename_i hs
          cases h
          simp only [startsJob, Bool.and_eq_true, beq_iff_eq, Bool.not_eq_true'] at hs
          exact .inr (.inr ⟨off, size, v, rest, rfl, by rw [hr, hs.1.1], hs.1.2, hs.2, rfl⟩)
        · cases h
      · cases h
    | regRead off size =>
      simp only [takeInput] at h
      split at h <;> cases h
    | memWrite a v => simp [takeInput] at h
    | memRead a => simp [takeInput] at h
    | engineTurn =>
      simp only [takeInput, engineTurn] at h
      split at h
      · cases h; exact .inr (.inl ⟨rest, rfl, rfl, ‹_›⟩)
      · cases h
    | hardReset => simp [takeInput] at h

theorem havocBytes_wf {as : List Nat} {s : State} (h : s.mem.wf = true) : (havocBytes as s).mem.wf = true := by
  induction as generalizing s with
  | nil => exact h
  | cons a rest ih => exact ih (wf_setByte h _ _)

/-- Free values reach only the bytes named. -/
theorem havocBytes_other {as : List Nat} {s : State} (h : s.mem.wf = true) {x : Nat} (hx : x ∉ as) :
    (havocBytes as s).mem.getByte x = s.mem.getByte x := by
  induction as generalizing s with
  | nil => rfl
  | cons a rest ih =>
    rw [List.mem_cons, not_or] at hx
    rw [havocBytes, ih (wf_setByte h _ _) hx.2]
    exact (getByte_setByte h _ _ _).trans (if_neg fun hh => hx.1 hh.1)

theorem havocElems_wf {es : List Elem} {s : State} (h : s.mem.wf = true) : (havocElems es s).mem.wf = true :=
  havocBytes_wf h

theorem havocElems_other {es : List Elem} {s : State} (h : s.mem.wf = true) {x : Nat}
    (hx : ∀ e ∈ es, ¬e.covers x) : (havocElems es s).mem.getByte x = s.mem.getByte x := by
  refine havocBytes_other h ?_
  intro hm
  obtain ⟨e, he, hb⟩ := List.mem_flatMap.1 hm
  rw [Elem.bytes, List.mem_range'_1] at hb
  exact hx e he hb

/-- What a band's writes do to memory when the host has kept the protocol. -/
theorem writeBand_mem {sts : List Store} {es : List Elem} {s : State} (h : s.runningTainted = false) :
    (writeBand sts es s).mem = Memory.applyStores sts s.mem ∧ (writeBand sts es s).freeIx = s.freeIx := by
  unfold writeBand
  rw [h]
  exact ⟨rfl, rfl⟩

theorem writeBand_wf {sts : List Store} {es : List Elem} {s : State} (h : s.mem.wf = true) :
    (writeBand sts es s).mem.wf = true := by
  unfold writeBand
  split
  · exact havocElems_wf h
  · exact wf_applyStores h sts

/-- The host's break of the protocol keeps everything but memory and the free values. -/
theorem breakOwnership_wf {a : Nat} {os : List OwnedJob} {s : State} (h : s.mem.wf = true) :
    (breakOwnership a os s).2.mem.wf = true := by
  induction os generalizing s with
  | nil => exact h
  | cons o rest ih =>
    rw [breakOwnership]
    split
    · exact ih (havocElems_wf h)
    · exact ih h

theorem breakOwnership_jobs (a : Nat) (os : List OwnedJob) (s : State) :
    (breakOwnership a os s).1.map OwnedJob.job = os.map OwnedJob.job := by
  induction os generalizing s with
  | nil => rfl
  | cons o rest ih =>
    rw [breakOwnership]
    split <;> simp [ih]

/-- The stores of a row are to the row's elements (44 R254). -/
theorem SurfRef.pack_elems (p : SurfRef) (x y : Nat) (px : Px) :
    (p.pack x y px).map Store.elem = p.pixelElems x y := by
  unfold SurfRef.pack SurfRef.pixelElems
  cases p.surf <;> simp [Surf.channels, Surf.count, List.zipIdx, List.range_succ]

end Sys2Proof.Machine
end

