-- ==== Sys2Proof/Laws/PerInstr.lean ====
section
/-! SUPPORT. Statements made per instruction: no instruction's CTRL word sets a reserved bit (30 R92, R98), well-formed
or not. -/

namespace Sys2Proof.Laws.ReservedBitsClear

/-- The reserved fields of the instruction's CTRL word are 0. -/
def Statement (i : Instr) : Prop := ctrlReservedClear (encode i) = true

theorem ofFields : ∀ (op : Fin 16) (m : Fin 2) (rot : Fin 4) (r : Fin 2) (tf : Fin 16),
    ctrlReservedClear (BitVec.ofNat 32 (op + 256 * m + 512 * rot + 4096 * r + 65536 * tf)) = true := by
  intro op m rot r tf
  have h : (BitVec.ofNat 32 (op + 256 * m + 512 * rot + 4096 * r + 65536 * tf : Nat)).toNat =
      op + 256 * m + 512 * rot + 4096 * r + 65536 * tf := by
    rw [BitVec.toNat_ofNat]
    omega
  simp only [ctrlReservedClear, field, h, Bool.and_eq_true, beq_iff_eq]
  refine ⟨⟨⟨?_, ?_⟩, ?_⟩, ?_⟩ <;> omega

theorem encodeC_clear (op : Fin 16) (model : ColorModel) (rot : BitVec 2) (range : YuvRange) (tf : BitVec 4) :
    ctrlReservedClear (encodeC op model rot range tf) = true := by
  have := ofFields op ⟨model.code, by cases model <;> decide⟩ rot.toFin ⟨range.code, by cases range <;> decide⟩ tf.toFin
  simpa [encodeC] using this

theorem enc (model : ColorModel) (rot : BitVec 2) (range : YuvRange) (tf : BitVec 4) :
    Statement (.enc model rot range tf) := encodeC_clear 1 model rot range tf

theorem dec (model : ColorModel) (rot : BitVec 2) (range : YuvRange) (tf : BitVec 4) :
    Statement (.dec model rot range tf) := encodeC_clear 2 model rot range tf

theorem widenD : Statement .widenD := rfl
theorem widen10 : Statement .widen10 := rfl
theorem widen12 : Statement .widen12 := rfl
theorem widen16 : Statement .widen16 := rfl
theorem narrowD : Statement .narrowD := rfl
theorem narrow10 : Statement .narrow10 := rfl
theorem narrow12 : Statement .narrow12 := rfl
theorem narrow16 : Statement .narrow16 := rfl
theorem perm : Statement .perm := rfl
theorem u2h : Statement .u2h := rfl
theorem h2u : Statement .h2u := rfl

end Sys2Proof.Laws.ReservedBitsClear
end

