-- ==== Sys2Proof/Tests/Slice0.lean ====
section
/-! SUPPORT. Small tests, expected results from the spec's own tables and programs (spec/95_test_vectors.md and the
examples named), and for every statement with hypotheses a state that meets them. -/

namespace Sys2Proof.Tests

open Sys2Proof Sys2Proof.Machine

-- One thread is enough for these: the package as one text would start more than the memory limit allows.
set_option Elab.async false

/-! ### Helpers -/

/-- Bytes placed from an address on. -/
def putBytes : Nat → List Byte → Memory → Memory
  | _, [], m => m
  | a, b :: rest, m => putBytes (a + 1) rest (m.setByte a b)

/-- A descriptor with CTRL of `i`, surface A at 0x1000, B at 0x2000, Y at 0x3000, U at 0x4000, V at 0x5000, every
stride 16 and the matrix 0. -/
def descOf (i : Instr) (fmt w h : Word) : Desc :=
  { Desc.zero with
    ctrl := encode i, fmt := fmt, width := w, height := h
    aPtr := 0x1000, aStride := 16, bPtr := 0x2000, bStride := 16
    yPtr := 0x3000, yStride := 16, uPtr := 0x4000, uStride := 16, vPtr := 0x5000, vStride := 16 }

/-- A state about to run band 0 of that job. -/
def runs (i : Instr) (fmt w h : Word) (mem : Memory) : State :=
  { State.reset with desc := descOf i fmt w h, busy := true, mem := mem }

/-- The same descriptor with the engine idle. -/
def idle (i : Instr) (fmt w h : Word) : State := { State.reset with desc := descOf i fmt w h }

/-- An idle state with one input. -/
def given (x : Input) : State := { State.reset with inputs := [x] }

/-- A busy state with one input. -/
def busyGiven (x : Input) : State := { State.reset with busy := true, desc := descOf .u2h 0x888 1 1, inputs := [x] }

/-- A value of the next state. -/
def seen {α : Type} (o : Host.Outcome State Fault Refusal) (f : State → α) : Option α :=
  match o with
  | .next t => some (f t)
  | .fault _ => none
  | .refused _ => none

/-- ENC and DEC of the BT.601 PC range and of the TV range. -/
abbrev encPc : Instr := .enc .linear 0 .pc 0
/-- DEC, TV range. -/
abbrev decTv : Instr := .dec .linear 0 .tv 0

/-- The BT.601 PC encoding matrix as register words (95 section 2.1). -/
def withBt601Pc (d : Desc) : Desc :=
  { d with
    m0 := 0x4C8B, m1 := 0x9646, m2 := 0x1D2F, m3 := 0xFFFFD4CE, m4 := 0xFFFFAB32, m5 := 0x8000
    m6 := 0x8000, m7 := 0xFFFF94D1, m8 := 0xFFFFEB2F }

/-- The descriptor of program P1 (95 part 3). -/
def descP1 : Desc :=
  withBt601Pc { Desc.zero with
    ctrl := 0x1001, fmt := 0x20801, width := 3, height := 3, aPtr := 0x1000, aStride := 12
    yPtr := 0x2000, yStride := 4, uPtr := 0x3000, uStride := 4, vPtr := 0x3100, vStride := 4 }

/-- Its format. -/
def fmtP1 : Fmt := ⟨.rgb, none, 8, .s420, .p3⟩

/-- The job of a descriptor that keeps P1's CTRL and FMT. -/
def jobP1 (d : Desc) : Job := makeJob encPc Config.default d fmtP1 .d8

/-- P1 before its band 1, with the third source row in memory. -/
def stateP1 : State :=
  { State.reset with
    desc := descP1, busy := true, rowPos := 1
    mem := putBytes 0x1018 [0x0A, 0x14, 0x1E, 0xC8, 0x64, 0x32, 0xFF, 0xFF, 0x00] [] }

/-! ### WellFormed (30 R97) -/

theorem test_enc_rot_needs_lifting : Instr.wellFormed (.enc .linear 1 .pc 0) = false := by decide
theorem test_dec_rot_needs_lifting : Instr.wellFormed (.dec .linear 3 .tv 15) = false := by decide
theorem witness_wellFormed :
    Instr.wellFormed (.enc .lifting 3 .pc 15) = true ∧ Instr.wellFormed (.dec .linear 0 .tv 0) = true := by decide

/-! ### Decoding: CTRL words written out from 30 R92, R93, R94, R107 (OP [3:0], FIXD [5:4], MODEL 8, ROT [10:9],
RANGE 12, TF [19:16]) -/

theorem test_decode_enc : decode 0b00000000000000000001000000000001 = .ok (.enc .linear 0 .pc 0) := by decide +kernel
theorem test_decode_enc_all_fields :
    decode 0b00000000000010100001011100000001 = .ok (.enc .lifting 3 .pc 10) := by decide +kernel
theorem test_decode_dec : decode 0b00000000000000000000000000000010 = .ok (.dec .linear 0 .tv 0) := by decide +kernel
theorem test_decode_dec_all_fields :
    decode 0b00000000000000010000001100000010 = .ok (.dec .lifting 1 .tv 1) := by decide +kernel
theorem test_decode_widenD : decode 0b000011 = .ok .widenD := by decide +kernel
theorem test_decode_widen10 : decode 0b010011 = .ok .widen10 := by decide +kernel
theorem test_decode_widen12 : decode 0b100011 = .ok .widen12 := by decide +kernel
theorem test_decode_widen16 : decode 0b110011 = .ok .widen16 := by decide +kernel
theorem test_decode_narrowD : decode 0b000100 = .ok .narrowD := by decide +kernel
theorem test_decode_narrow10 : decode 0b010100 = .ok .narrow10 := by decide +kernel
theorem test_decode_narrow12 : decode 0b100100 = .ok .narrow12 := by decide +kernel
theorem test_decode_narrow16 : decode 0b110100 = .ok .narrow16 := by decide +kernel
theorem test_decode_perm : decode 0b000101 = .ok .perm := by decide +kernel
theorem test_decode_u2h : decode 0b000110 = .ok .u2h := by decide +kernel
theorem test_decode_h2u : decode 0b000111 = .ok .h2u := by decide +kernel
/-- 60 R294 and 95 section 2.10: OP 0 and 8, a reserved bit, FIXD on ENC, ROT without MODEL, RANGE in format S. -/
theorem test_decode_refuses :
    decode 0 = .error .illegalOp ∧ decode 0x1008 = .error .illegalOp ∧ decode 0x1041 = .error .reservedBit ∧
    decode 0x1011 = .error .fixdNotAllowed ∧ decode 0x1201 = .error .rotWithoutLifting ∧
    decode 0x1005 = .error .formatCField := by decide +kernel
/-- FMT words of 95 section 2.9: SURF_A [3:0], SURF_B [7:4], BITS [12:8], SUBS [18:16], ARR [21:20]. -/
theorem test_decodeFmt :
    decodeFmt 0b00000000000100100000100000000100 = .ok ⟨.bgra, none, 8, .s420, .spuv⟩ ∧
    decodeFmt 0b00000000000000000000110010001000 = .ok ⟨.gray, some .gray, 12, .s444, .p3⟩ ∧
    decodeFmt 0b00000000000000000000101000100111 = .ok ⟨.rgba1010102, some .bgr, 10, .s444, .p3⟩ := by decide +kernel

/-! ### The host's side (40 R144, R145; 95 section 2.1) -/

theorem test_bt601_pc_enc : encCoeffs Preset.bt601.kr Preset.bt601.kb .pc 8 =
    ⟨19595, 38470, 7471, -11058, -21710, 32768, 32768, -27439, -5329⟩ := by decide +kernel
theorem test_bt709_tv_10_dec : decCoeffs Preset.bt709.kr Preset.bt709.kb .tv 10 =
    ⟨76533, 0, 117835, 76533, -14017, -35027, 76533, 138846, 0⟩ := by decide +kernel
/-- 95 section 2.11, trace A: CAP. -/
theorem test_cap : capWord Config.default = 0x00211010 := by decide +kernel
/-- 30 R108: the FMT word of `ENC a=RGB bits=10 subs=411 arr=SPVU` (95 section 2.9). -/
theorem test_jobLine_fmt :
    JobLine.fmtWord { job := decTv, a := some ⟨.rgb, 0x9000, 42⟩, bits := 10, subs := .s411, arr := .spvu }
      = 0x00230A01 := by decide +kernel

/-! ### One step of each instruction -/

/-- 95 part 3, P1, band 1: luma row 2 and chroma row 1, partial blocks. -/
theorem test_enc_P1_band1 :
    seen (step stateP1) (fun t => (t.mem.read 0x2008 4, t.mem.read 0x3004 2, t.mem.read 0x3104 2, t.done)) =
      some (0x00E27C12, 0x016E, 0x9598, true) := by decide +kernel
/-- 40 R150 with TV range: (255, 0, 0) gives (81, 90, 240). -/
theorem test_enc_red :
    let m : Coeffs := ⟨16829, 33039, 6416, -9714, -19071, 28784, 28784, -24103, -4681⟩
    (forwardY m .tv 8 255 0 0, decimate (accU m 255 0 0) 1 8, decimate (accV m 255 0 0) 1 8) = (81, 90, 240) := by
  decide +kernel
/-- 95 section 2.3, raw values outside the range on both sides. -/
theorem test_dec_clamps :
    let m : Coeffs := ⟨76309, 0, 104597, 76309, -25675, -53279, 76309, 132201, 0⟩
    inverse m .tv 8 128 0 255 = (255, 77, 0) ∧ inverse m .tv 8 145 54 34 = (0, 255, 1) := by decide +kernel
/-- 95 section 2.3, 4:0:0 to ABGR: luma `7E` gives `FF 80 80 80`. -/
theorem test_dec_400 :
    let s := runs decTv 0x00050806 1 1 (putBytes 0x3000 [0x7E] [])
    seen (step { s with desc := { s.desc with m0 := 76309, m3 := 76309, m6 := 76309 } })
      (fun t => t.mem.read 0x1000 4) = some 0x808080FF := by decide +kernel
/-- 95 section 2.6: 200 gives 803, 3212 and 51400. -/
theorem test_widenD :
    seen (step (runs .widenD 0xC88 1 1 [(0x1000, 200)])) (fun t => t.mem.read 0x2000 2) = some 3212 := by
  decide +kernel
theorem test_widen10 :
    seen (step (runs .widen10 0x88 1 1 [(0x1000, 200)])) (fun t => t.mem.read 0x2000 2) = some 803 := by decide +kernel
theorem test_widen12 :
    seen (step (runs .widen12 0x88 1 1 [(0x1000, 235)])) (fun t => t.mem.read 0x2000 2) = some 3774 := by
  decide +kernel
theorem test_widen16 :
    seen (step (runs .widen16 0x88 1 1 [(0x1000, 200)])) (fun t => t.mem.read 0x2000 2) = some 51400 := by
  decide +kernel
/-- 95 section 2.6: 511 gives 128 at 10 bits, and a value outside the depth saturates. -/
theorem test_narrowD :
    seen (step (runs .narrowD 0xA88 1 1 [(0x1000, 0xFF), (0x1001, 1)])) (fun t => t.mem.read 0x2000 2) = some 128 := by
  decide +kernel
theorem test_narrow10 :
    seen (step (runs .narrow10 0x88 1 1 [(0x1000, 0xD0), (0x1001, 7)])) (fun t => t.mem.read 0x2000 2) = some 255 := by
  decide +kernel
theorem test_narrow12 :
    seen (step (runs .narrow12 0x88 1 1 [(0x1000, 8)])) (fun t => t.mem.read 0x2000 2) = some 1 := by decide +kernel
theorem test_narrow16 :
    seen (step (runs .narrow16 0x88 1 1 [(0x1000, 0x7F), (0x1001, 0xFF)])) (fun t => t.mem.read 0x2000 2) =
      some 255 := by decide +kernel
/-- 95 section 2.6, the TRUNC columns. -/
theorem test_narrow_trunc :
    narrow .trunc 511 10 = 127 ∧ narrow .trunc 4087 12 = 255 ∧ narrow .trunc 128 16 = 0 := by decide +kernel
/-- 95 section 1.6: RGBA 11 22 33 44 gives BGRA 33 22 11 44. -/
theorem test_perm_rgba_bgra :
    seen (step (runs .perm 0x843 1 1 (putBytes 0x1000 [0x11, 0x22, 0x33, 0x44] []))) (fun t => t.mem.read 0x2000 4) =
      some 0x44112233 := by decide +kernel
/-- 95 part 3, P5: the first pixel, packed. -/
theorem test_perm_packs :
    seen (step (runs .perm 0xA71 1 1 (putBytes 0x1000 [0xFF, 3, 0, 0, 0, 2] []))) (fun t => t.mem.read 0x2000 4) =
      some 0xE00003FF := by decide +kernel
/-- 95 section 2.7: 128 at 8 bits. -/
theorem test_u2h :
    seen (step (runs .u2h 0x888 1 1 [(0x1000, 128)])) (fun t => t.mem.read 0x2000 2) = some 0x3804 := by decide +kernel
/-- 95 section 2.7: a subnormal result, a rounding up to 1.0, a value outside the depth. -/
theorem test_u2h_corners : u2h 1 16 = 0x0100 ∧ u2h 65534 16 = 0x3C00 ∧ u2h 2000 10 = 0x3FD2 := by decide +kernel
/-- 95 section 2.7: 2^-7 at 8 bits. -/
theorem test_h2u :
    seen (step (runs .h2u 0x888 1 1 [(0x1001, 0x20)])) (fun t => t.mem.read 0x2000 1) = some 2 := by decide +kernel
/-- 95 section 2.7: -0, a subnormal, -1.0, -infinity, NaN, infinity, just below and above 1.0, at 12 bits. -/
theorem test_h2u_corners :
    [0x8000, 0x0001, 0xBC00, 0xFC00, 0x7E00, 0x7C00, 0x3BFF, 0x3C01].map (h2u · 12) =
      [0, 0, 0, 0, 0, 4095, 4093, 4095] := by decide +kernel

/-! ### Geometry and surfaces -/

/-- 95 section 2.5: 7 x 5 at 4:2:0 is 4 x 3, three bands, the corner block one pixel. -/
theorem test_geometry :
    let job := jobP1 { descP1 with width := 7, height := 5 }
    job.cw = 4 ∧ job.ch = 3 ∧ job.nbands = 3 ∧ job.block 3 2 = [(6, 4)] ∧
    job.block 1 0 = [(2, 0), (3, 0), (2, 1), (3, 1)] := by decide +kernel
/-- 95 section 2.8: a stored 2000 is masked in a packed field, not clamped. -/
theorem test_pack_masks : packWord { r := 2000 } = 976 ∧ (unpackWord 0x5F0A2B3C) = { r := 828, g := 650, b := 496, a := 1 } := by
  decide +kernel

/-- 43 R220: in ARGB, A is element 0, R 1, G 2, B 3; bytes 11 22 33 44 (95 section 1.6). -/
theorem test_argb_order :
    (SurfRef.mk .argb 1 0x10 4).unpack (putBytes 0x10 [0x44, 0x11, 0x22, 0x33] []) 0 0 =
      { r := 0x11, g := 0x22, b := 0x33, a := 0x44 } := by decide +kernel
/-- 60 R295: the planes of P1 with their offsets, row lengths and row counts. -/
theorem test_planes_P1 :
    (jobP1 descP1).planes.map (fun p => (p.ptrReg.offset, p.strideReg.offset, p.isDest, p.rowBytes, p.rows)) =
      [(0x18, 0x1C, false, 9, 3), (0x28, 0x2C, true, 3, 3), (0x30, 0x34, true, 2, 2), (0x38, 0x3C, true, 2, 2)] := by
  decide +kernel

/-! ### Refusals (95 section 2.10: P1's descriptor with one change) -/

/-- ERRCODE and ERRINFO of a START of P1's descriptor after a change. -/
def refusalOf (d : Desc) : Option (Nat × Nat × Nat) :=
  seen (step { State.reset with desc := d, inputs := [startInput] })
    (fun t => (t.statusWord.toNat, t.errCode.code.toNat, t.errInfo.toNat))

theorem test_P1_accepted : refusalOf descP1 = some (1, 0, 0) := by decide +kernel
theorem test_refusal_order :
    refusalOf { descP1 with ctrl := 0, fmt := 0x20901, width := 0, aPtr := 0 } = some (4, 1, 0x08) ∧
    refusalOf { descP1 with fmt := 0x20901, width := 0 } = some (4, 2, 0x0C) ∧
    refusalOf { descP1 with uPtr := 0, aStride := 1 } = some (4, 5, 0x30) := by decide +kernel
theorem test_refusals_of_planes :
    refusalOf { descP1 with uStride := 1 } = some (4, 7, 0x34) ∧
    refusalOf { descP1 with height := 1, aStride := 0 } = some (4, 7, 0x1C) ∧
    refusalOf { descP1 with yPtr := 0xFFFFFFF6 } = some (4, 8, 0x28) ∧
    refusalOf { descP1 with yPtr := 0xFFFFFFF5 } = some (1, 0, 0) ∧
    refusalOf { descP1 with uPtr := 0x2004 } = some (4, 9, 0x28) ∧
    refusalOf { descP1 with yPtr := 0x1021 } = some (1, 0, 0) := by decide +kernel

/-! ### Witnesses: encoding and the register port -/

theorem witness_reservedCtrlBits :
    let s := given startInput
    s.busy = false ∧ s.inputs = startInput :: [] ∧ (0x00000041 : Word) &&& 0xFFF0E8C0 ≠ 0 ∧
    (0x80000001 : Word) &&& 0xFFF0E8C0 ≠ 0 := by decide +kernel
theorem witness_reservedCtrlState :
    seen (step { given startInput with desc := { descP1 with ctrl := 0x80001001 } }) (fun t => t.errInfo) =
      some 0x08 := by decide +kernel
theorem witness_reservedFmtBits :
    seen (exec encPc { State.reset with desc := { descP1 with fmt := 0x80020801 } }) (fun t => t.errInfo) = some 0x0C ∧
    seen (exec .perm { State.reset with desc := { descP1 with fmt := 0x2801 } }) (fun t => t.errInfo) = some 0x0C ∧
    (0x80020801 : Word) &&& 0xFFC8E000 ≠ 0 ∧ (0x2801 : Word) &&& 0xFFC8E000 ≠ 0 := by decide +kernel
/-- One FMT word for each cause of 60 R294, boundary codes: SURF_A 0 and 9, SURF_B 9, SUBS 6, ARR 3, SURF_B = 1 in
format C; SURF_B = 0, SUBS = 1 and ARR = 1 in format S. -/
theorem witness_illegalFmt :
    [0x20800, 0x20809, 0x20891, 0x60801, 0x320801, 0x20811].all (fun w =>
      decide (FmtIllegal encPc w) &&
      (seen (exec encPc { State.reset with desc := { descP1 with fmt := w } }) (fun t => t.errInfo) == some 0x0C)) =
      true ∧
    [0x801, 0x10831, 0x100831].all (fun w =>
      decide (FmtIllegal .perm w) &&
      (seen (exec .perm { State.reset with desc := descOf .perm w 1 1 }) (fun t => t.errInfo) == some 0x0C)) =
      true ∧ ¬FmtIllegal encPc 0x20801 ∧ ¬FmtIllegal .perm 0x831 := by decide +kernel
/-- Each way out of the port: two bytes, misaligned, past the block; and the last register inside. -/
theorem witness_portAccess :
    (step (given (.regRead 0x00 2)) = .refused .portAccess ∧ step (given (.regWrite 0x02 4 0)) = .refused .portAccess ∧
    step (given (.regRead 0x80 4)) = .refused .portAccess) ∧ Reg.ofAccess 0x7C 4 = some .sreset ∧
    Reg.ofAccess 0x00 4 = some .id := by
  refine ⟨⟨rfl, rfl, rfl⟩, ?_⟩
  decide +kernel
theorem witness_descriptorWrite :
    (given (.regWrite 0x08 4 0xFFFFFFFF)).busy = false ∧
    (given (.regWrite 0x08 4 0xFFFFFFFF)).inputs = [.regWrite (Reg.desc .ctrl).offset 4 0xFFFFFFFF] ∧
    seen (step (given (.regWrite 0x08 4 0xFFFFFFFF))) (fun t => t.desc.ctrl) = some 0xFFFFFFFF ∧
    seen (step (given (.regWrite 0x60 4 7))) (fun t => (t.desc.m8, t.desc.m7)) = some (7, 0) := by decide +kernel
/-- Trace B of 95 section 2.11: dropped, ignored, honoured, honoured, reset; and a read. -/
theorem witness_busyLocks :
    seen (step (busyGiven (.regWrite 0x08 4 9))) (fun t => (t.desc.ctrl, t.busy)) = some (0x06, true) ∧
    seen (step (busyGiven (.regWrite 0x60 4 9))) (fun t => (t.desc.m8, t.busy)) = some (0, true) ∧
    seen (step (busyGiven (.regWrite 0x64 4 1))) (fun t => (t.rowPos, t.owned.length)) = some (0, 0) ∧
    seen (step (busyGiven (.regWrite 0x68 4 6))) (fun t => t.statusWord) = some 1 ∧
    seen (step (busyGiven (.regWrite 0x74 4 3))) (fun t => t.irqEn) = some 3 ∧
    seen (step (busyGiven (.regWrite 0x7C 4 1))) (fun t => (t.busy, t.desc == Desc.zero)) = some (false, true) ∧
    seen (step (busyGiven (.regRead 0x08 4))) (fun t => t.readData) = some 6 := by decide +kernel
theorem witness_readOnlyAndWriteOnly :
    step (given (.regWrite 0x00 4 1)) = .next State.reset ∧ step (given (.regWrite 0x78 4 5)) = .next State.reset ∧
    step (given (.regRead 0x64 4)) = .next State.reset ∧ step (given (.regRead 0x7C 4)) = .next State.reset :=
  ⟨rfl, rfl, rfl, rfl⟩
/-- 10 R30, R31, R32, 60 R291: STATUS, ERRCODE and ERRINFO as read after P4's refusal (E_STRIDE on B_STRIDE), and the
read-back of a descriptor register with its reserved bits. -/
theorem witness_registerReads :
    let s := fun off => { given (.regRead off 4) with err := true, errCode := .stride, errInfo := 0x24, rowPos := 9
                                                      irqEn := 0xF0, desc := { descP1 with fmt := 0xFFFFFFFF } }
    [0x68, 0x6C, 0x70, 0x74, 0x78, 0x0C, 0x10].map (fun off => seen (step (s off)) (fun t => t.readData)) =
      [some 4, some 7, some 0x24, some 0xF0, some 9, some 0xFFFFFFFF, some 3] := by decide +kernel
theorem witness_identity :
    seen (step (given (.regRead 0x00 4))) (fun t => t.readData) = some 0x43434501 ∧
    seen (step (given (.regRead 0x04 4))) (fun t => t.readData) = some 0x00211010 ∧
    seen (step { given (.regRead 0x04 4) with cfg := ⟨100, .v512, .four, .trunc⟩ }) (fun t => t.readData) =
      some 0x00491040 := by decide +kernel
/-- DONE pending and enabled: the wrong bit leaves it, the right one clears it, and IRQ_EN raises the line. -/
theorem witness_acknowledge :
    let s := fun x => { given x with done := true, irqEn := 1 }
    seen (step (s (.regWrite 0x68 4 4))) (fun t => (t.done, t.irq)) = some (true, true) ∧
    seen (step (s (.regWrite 0x68 4 2))) (fun t => (t.done, t.irq)) = some (false, false) ∧
    seen (step (s (.regWrite 0x74 4 0))) (fun t => (t.done, t.irq)) = some (true, false) := by decide +kernel
/-- START with bits above 0 (trace B), with an illegal CTRL (trace A), with bit 0 clear, and while BUSY. -/
theorem witness_startDoorbell :
    decode (descP1).ctrl = .ok encPc ∧ decode State.reset.desc.ctrl = .error .illegalOp ∧
    seen (step { given (.regWrite 0x64 4 3) with desc := descP1 }) (fun t => t.statusWord) = some 1 ∧
    seen (step (given (.regWrite 0x64 4 1))) (fun t => (t.statusWord, t.errInfo)) = some (4, 0x08) ∧
    seen (step { given (.regWrite 0x64 4 2) with desc := descP1 }) (fun t => t.statusWord) = some 0 ∧
    seen (step (busyGiven (.regWrite 0x64 4 1))) (fun t => t.statusWord) = some 1 := by decide +kernel

/-! ### Witnesses: steps, refusal and acceptance -/

theorem witness_stepRuns :
    decode (idle .u2h 0x888 1 1).desc.ctrl = .ok .u2h ∧ (idle .u2h 0x888 1 1).busy = false ∧
    (runs .u2h 0x888 1 1 []).busy = true ∧ (runs .u2h 0x888 1 1 []).inputs = [] ∧
    seen (step { runs .u2h 0x888 1 1 [] with inputs := [.engineTurn] }) (fun t => t.done) = some true := by
  decide +kernel
theorem witness_idleEngine : step State.reset = .next State.reset ∧ step (given .engineTurn) = .next State.reset :=
  ⟨rfl, rfl⟩
theorem witness_refusedStart :
    resolve .widenD Config.default (descOf .widenD 0x888 1 1) = .error ⟨.unsup, .desc .fmt⟩ ∧
    seen (exec .widenD { idle .widenD 0x888 1 1 with irqEn := 2, done := true, rowPos := 5 })
      (fun t => (t.statusWord, t.rowPos, t.irq)) = some (4, 0, true) ∧
    currentJob Config.default (given startInput).desc = .error ⟨.op, .desc .ctrl⟩ := by decide +kernel
theorem witness_acceptedStart : Ready encPc { State.reset with desc := descP1 } (jobP1 descP1) := by decide +kernel
theorem witness_acceptedChecks :
    decodeJob encPc Config.default descP1 = .ok (jobP1 descP1) ∧
    resolve encPc Config.default descP1 = .ok (jobP1 descP1) := by decide +kernel
theorem witness_badWidth :
    let d := { descP1 with width := 0 }
    let e := { descP1 with width := 65536 }
    decodeJob encPc Config.default d = .ok (jobP1 d) ∧ (jobP1 d).w = 0 ∧
    decodeJob encPc Config.default e = .ok (jobP1 e) ∧ Config.default.maxDim.toNat < (jobP1 e).w := by decide +kernel
theorem witness_badHeight :
    let d := { descP1 with height := 0, width := 65535 }
    let e := { descP1 with height := 65536 }
    decodeJob encPc Config.default d = .ok (jobP1 d) ∧
    ¬((jobP1 d).w = 0 ∨ Config.default.maxDim.toNat < (jobP1 d).w) ∧ (jobP1 d).h = 0 ∧
    decodeJob encPc Config.default e = .ok (jobP1 e) ∧ Config.default.maxDim.toNat < (jobP1 e).h := by decide +kernel

/-- Y_PTR = 0: the luma plane is the first null one. -/
theorem witness_nullPointer :
    let d := { descP1 with yPtr := 0 }
    decodeJob encPc Config.default d = .ok (jobP1 d) ∧ dimCheck Config.default (jobP1 d) = none ∧
    FirstPlane (fun q => q.ptr = 0) (jobP1 d) ((jobP1 d).planeY true) := by
  refine ⟨by decide +kernel, by decide +kernel, [(jobP1 _).planeA false], (jobP1 _).chromaPlanes true, rfl, ?_, ?_⟩
  all_goals decide +kernel

/-- 95 section 2.10: BITS = 10, the pointer misaligned, and with it aligned the luma stride. -/
theorem witness_misaligned :
    let d := { descP1 with fmt := 0x20A01, aPtr := 0x1001, aStride := 18, yStride := 6 }
    let e := { descP1 with fmt := 0x20A01, aStride := 18, yStride := 7 }
    let job := fun x => makeJob encPc Config.default x { fmtP1 with bits := 10 } .d10
    let bad := fun q : Plane => q.ptr % q.align ≠ 0 ∨ q.stride % q.align ≠ 0
    (decodeJob encPc Config.default d = .ok (job d) ∧ dimCheck Config.default (job d) = none ∧
      AllPass nullCheck (job d) ∧ FirstPlane bad (job d) ((job d).planeA false)) ∧
    decodeJob encPc Config.default e = .ok (job e) ∧ dimCheck Config.default (job e) = none ∧
      AllPass nullCheck (job e) ∧ FirstPlane bad (job e) ((job e).planeY true) := by
  refine ⟨⟨by decide +kernel, by decide +kernel, by decide +kernel, [], _, rfl, ?_, ?_⟩,
    by decide +kernel, by decide +kernel, by decide +kernel, [Job.planeA _ false], _, rfl, ?_, ?_⟩
  all_goals decide +kernel

/-- A_STRIDE = 8 where the row needs 9. -/
theorem witness_shortStride :
    let d := { descP1 with aStride := 8 }
    decodeJob encPc Config.default d = .ok (jobP1 d) ∧ dimCheck Config.default (jobP1 d) = none ∧
    AllPass nullCheck (jobP1 d) ∧ AllPass alignCheck (jobP1 d) ∧
    FirstPlane (fun q => q.stride < q.rowBytes) (jobP1 d) ((jobP1 d).planeA false) := by
  refine ⟨by decide +kernel, by decide +kernel, by decide +kernel, by decide +kernel, [], _, rfl, ?_, ?_⟩
  all_goals decide +kernel

/-- Y_PTR = 0xFFFFFFF6: one byte past the top. -/
theorem witness_range :
    let d := { descP1 with yPtr := 0xFFFFFFF6 }
    decodeJob encPc Config.default d = .ok (jobP1 d) ∧ dimCheck Config.default (jobP1 d) = none ∧
    AllPass nullCheck (jobP1 d) ∧ AllPass alignCheck (jobP1 d) ∧ AllPass strideCheck (jobP1 d) ∧
    FirstPlane (fun q => 2 ^ 32 < q.ptr + q.stride * (q.rows - 1) + q.rowBytes) (jobP1 d)
      ((jobP1 d).planeY true) := by
  refine ⟨by decide +kernel, by decide +kernel, by decide +kernel, by decide +kernel, by decide +kernel,
    [(jobP1 _).planeA false], _, rfl, ?_, ?_⟩
  all_goals decide +kernel

/-- Y_PTR at the last byte of the footprint of A. -/
theorem witness_overlap :
    let d := { descP1 with yPtr := 0x1020 }
    decodeJob encPc Config.default d = .ok (jobP1 d) ∧ dimCheck Config.default (jobP1 d) = none ∧
    AllPass nullCheck (jobP1 d) ∧ AllPass alignCheck (jobP1 d) ∧ AllPass strideCheck (jobP1 d) ∧
    AllPass rangeCheck (jobP1 d) ∧
    FirstPlane (fun q => q.isDest = true ∧ ∃ r ∈ (jobP1 d).planes, r ≠ q ∧ q.ptr < r.hi ∧ r.ptr < q.hi) (jobP1 d)
      ((jobP1 d).planeY true) := by
  refine ⟨by decide +kernel, by decide +kernel, by decide +kernel, by decide +kernel, by decide +kernel,
    by decide +kernel, [(jobP1 _).planeA false], _, rfl, ?_, ?_⟩
  all_goals decide +kernel

/-- BITS = 9 and BITS = 0; and with a fixed variant BITS is not looked at. -/
theorem witness_badDepth :
    decodeFmt 0x20901 = .ok { fmtP1 with bits := 9 } ∧ fmtShapeOk encPc.kind fmtP1 = true ∧ encPc.fixedDepth = none ∧
    resolve encPc Config.default { descP1 with fmt := 0x20901 } = .error ⟨.bits, .desc .fmt⟩ ∧
    resolve encPc Config.default { descP1 with fmt := 0x20001 } = .error ⟨.bits, .desc .fmt⟩ ∧
    (resolve .widen10 Config.default (descOf .widen10 0x988 1 1)).isOk = true := by decide +kernel

/-- One legal format per clause: the CTRL causes; GRAY, packed at 8 bits and 4:0:0 semi-planar for ENC; depth 8,
unequal layouts and the packed surface for the format S operations; alpha between packed and unpacked for PERM. -/
theorem witness_unsupported :
    (effectiveDepth encPc fmtP1 = some .d8 ∧ decodeFmt 0x20801 = .ok fmtP1) ∧
    resolve (.enc .lifting 0 .pc 0) Config.default descP1 = .error ⟨.unsup, .desc .ctrl⟩ ∧
    resolve (.dec .linear 0 .pc 2) Config.default descP1 = .error ⟨.unsup, .desc .ctrl⟩ ∧
    resolve encPc Config.default { descP1 with fmt := 0x20808 } = .error ⟨.unsup, .desc .fmt⟩ ∧
    resolve encPc Config.default { descP1 with fmt := 0x20807 } = .error ⟨.unsup, .desc .fmt⟩ ∧
    resolve encPc Config.default { descP1 with fmt := 0x150801 } = .error ⟨.unsup, .desc .fmt⟩ ∧
    resolve .widenD Config.default (descOf .widenD 0x888 1 1) = .error ⟨.unsup, .desc .fmt⟩ ∧
    resolve .narrow10 Config.default (descOf .narrow10 0x21 1 1) = .error ⟨.unsup, .desc .fmt⟩ ∧
    resolve .u2h Config.default (descOf .u2h 0xA77 1 1) = .error ⟨.unsup, .desc .fmt⟩ ∧
    resolve .h2u Config.default (descOf .h2u 0x843 1 1) = .error ⟨.unsup, .desc .fmt⟩ ∧
    resolve .perm Config.default (descOf .perm 0x888 1 1) = .error ⟨.unsup, .desc .fmt⟩ ∧
    resolve .perm Config.default (descOf .perm 0x871 1 1) = .error ⟨.unsup, .desc .fmt⟩ ∧
    resolve .perm Config.default (descOf .perm 0xA37 1 1) = .error ⟨.unsup, .desc .fmt⟩ ∧
    resolve .perm Config.default (descOf .perm 0xA75 1 1) = .error ⟨.unsup, .desc .fmt⟩ := by decide +kernel

/-! ### Witnesses: a band of every instruction about to run -/

theorem witness_running_enc : Running encPc stateP1 (jobP1 descP1) := by decide +kernel
theorem witness_running_dec : Running decTv (runs decTv 0x00020801 1 1 [])
    (makeJob decTv Config.default (descOf decTv 0x00020801 1 1) fmtP1 .d8) := by decide +kernel
theorem witness_running_dec_400 : Running decTv (runs decTv 0x00050A07 1 1 [])
    (makeJob decTv Config.default (descOf decTv 0x00050A07 1 1) ⟨.rgba1010102, none, 10, .s400, .p3⟩ .d10) := by
  decide +kernel
/-- The job of a GRAY surface at a depth. -/
def grayJob (i : Instr) (fmt : Word) (bits : BitVec 5) (n : Depth) : Job :=
  makeJob i Config.default (descOf i fmt 1 1) ⟨.gray, some .gray, bits, .s444, .p3⟩ n
theorem witness_running_widenD :
    Running .widenD (runs .widenD 0xA88 1 1 []) (grayJob .widenD 0xA88 10 .d10) ∧
    Running .widenD (runs .widenD 0x1088 1 1 []) (grayJob .widenD 0x1088 16 .d16) := by decide +kernel
theorem witness_running_widen10 :
    Running .widen10 (runs .widen10 0x88 1 1 []) (grayJob .widen10 0x88 0 .d10) := by decide +kernel
theorem witness_running_widen12 :
    Running .widen12 (runs .widen12 0x88 1 1 []) (grayJob .widen12 0x88 0 .d12) := by decide +kernel
theorem witness_running_widen16 :
    Running .widen16 (runs .widen16 0x88 1 1 []) (grayJob .widen16 0x88 0 .d16) := by decide +kernel
theorem witness_running_narrowD :
    Running .narrowD (runs .narrowD 0xA88 1 1 []) (grayJob .narrowD 0xA88 10 .d10) ∧
    Running .narrowD (runs .narrowD 0x1088 1 1 []) (grayJob .narrowD 0x1088 16 .d16) := by decide +kernel
theorem witness_running_narrow10 :
    Running .narrow10 (runs .narrow10 0x88 1 1 []) (grayJob .narrow10 0x88 0 .d10) := by decide +kernel
theorem witness_running_narrow12 :
    Running .narrow12 (runs .narrow12 0x88 1 1 []) (grayJob .narrow12 0x88 0 .d12) := by decide +kernel
theorem witness_running_narrow16 :
    Running .narrow16 (runs .narrow16 0x88 1 1 []) (grayJob .narrow16 0x88 0 .d16) := by decide +kernel
/-- The same job on a block built with NARROW_RND = TRUNC. -/
theorem witness_running_narrow_trunc :
    let cfg : Config := { narrowRnd := .trunc }
    Running .narrow10 { runs .narrow10 0x88 1 1 [] with cfg := cfg }
      (makeJob .narrow10 cfg (descOf .narrow10 0x88 1 1) ⟨.gray, some .gray, 0, .s444, .p3⟩ .d10) := by decide +kernel
theorem witness_running_perm : Running .perm (runs .perm 0xA71 1 1 [])
    (makeJob .perm Config.default (descOf .perm 0xA71 1 1) ⟨.rgb, some .rgba1010102, 10, .s444, .p3⟩ .d10) := by
  decide +kernel
theorem witness_running_u2h : Running .u2h (runs .u2h 0x888 1 1 []) (grayJob .u2h 0x888 8 .d8) := by decide +kernel
theorem witness_running_h2u : Running .h2u (runs .h2u 0x888 1 1 []) (grayJob .h2u 0x888 8 .d8) := by decide +kernel
/-- The clauses of H2U at their boundaries, at 8 bits: the largest subnormal, the least normal, the largest finite,
infinity, the first NaN, and the first negative pattern. -/
theorem witness_h2u_clauses :
    [0x03FF, 0x0400, 0x7BFF, 0x7C00, 0x7C01, 0x8000].map (h2u · 8) = [0, 0, 255, 255, 0, 0] := by decide +kernel
/-- The nearest-even premise at the largest finite pattern and at a tie. -/
theorem witness_rne :
    rne16 65504 1 = 0x7BFF ∧ rne16 2049 2048 = 0x3C00 ∧ rne16 2051 2048 = 0x3C02 ∧ rne16 0 1 = 0 := by decide +kernel

/-! ### Witnesses: the whole machine -/

/-- P1 just launched from reset. -/
def launchedP1 : State := acceptJob (jobP1 descP1) { State.reset with desc := descP1 }

/-- The invariant holds of it, BUSY included. -/
theorem witness_safe : Safe launchedP1 where
  memWf := by decide +kernel
  flags := by decide +kernel
  record := by decide +kernel
  underway := fun _ => ⟨jobP1 descP1, by decide +kernel, by decide +kernel, false, [], rfl⟩

theorem witness_safe_step : seen (step launchedP1) (fun t => (t.rowPos, t.busy)) = some (1, true) := by decide +kernel
theorem witness_job_completes :
    launchedP1.busy = true ∧ launchedP1.done = false ∧ launchedP1.inputs = [] ∧ launchedP1.rowPos = 0 ∧
    launchedP1.mem.wf = true ∧ decode launchedP1.desc.ctrl = .ok encPc ∧
    resolve encPc launchedP1.cfg launchedP1.desc = .ok (jobP1 descP1) ∧ (jobP1 descP1).nbands = 2 := by decide +kernel
/-- Two states of one job, 1 x 2 pixels of GRAY with stride 16, that differ in a padding byte of the source and in
registers no band reads; its source elements are the bytes 0x1000 and 0x1010. -/
theorem witness_bands_sources :
    let s := runs .u2h 0x888 1 2 []
    let s' := { runs .u2h 0x888 1 2 [(0x1001, 0xEE)] with irqEn := 1, memData := 1 }
    let job := makeJob .u2h Config.default (descOf .u2h 0x888 1 2) ⟨.gray, some .gray, 8, .s444, .p3⟩ .d8
    Running .u2h s job ∧ Running .u2h s' job ∧ s'.rowPos = s.rowPos ∧ job.kind ≠ .dec ∧ job.w = 1 ∧ job.h = 2 ∧
    job.refA.pixelElems 0 0 = [⟨0x1000, 1⟩] ∧ job.refA.pixelElems 0 1 = [⟨0x1010, 1⟩] ∧
    Memory.getByte s'.mem 0x1000 = Memory.getByte s.mem 0x1000 ∧
    Memory.getByte s'.mem 0x1010 = Memory.getByte s.mem 0x1010 := by decide +kernel
theorem witness_fixed_dynamic :
    field (descOf .widen10 0xA88 1 1).fmt 8 5 = 10 ∧ field (descOf .widen12 0xC88 1 1).fmt 8 5 = 12 ∧
    field (descOf .widen16 0x1088 1 1).fmt 8 5 = 16 := by decide +kernel
/-- ENC to NV12 and to NV21. -/
theorem witness_semi_planar :
    let f : Fmt := { fmtP1 with arr := .spuv }
    let job := makeJob encPc Config.default { descP1 with fmt := 0x120801 } f .d8
    job.arr = .spuv ∧ Running encPc { stateP1 with desc := { descP1 with fmt := 0x120801 } } job ∧
    Running encPc { stateP1 with desc := { descP1 with fmt := 0x220801 } } { job with arr := .spvu } := by
  decide +kernel
theorem witness_bands_part :
    let job := jobP1 { descP1 with width := 7, height := 5 }
    0 < job.sx ∧ 0 < job.sy ∧ 4 < job.h ∧ 4 ∈ job.bandRows 2 ∧ 3 < job.cw ∧ 2 < job.ch := by decide +kernel
/-- SRESET and the pin, BUSY and idle; and SRESET with bit 0 clear, which leaves the running job. -/
theorem witness_reset :
    seen (step { launchedP1 with inputs := [.regWrite 0x7C 4 0xFFFFFFFE] }) (fun t => (t.statusWord, t.desc.width)) =
      some (1, 3) ∧
    seen (step (given (.regWrite 0x7C 4 1))) (fun t => t.statusWord) = some 0 ∧
    seen (step { launchedP1 with inputs := [.hardReset] }) (fun t => (t.statusWord, t.owned.length, t.rowPos)) =
      some (0, 0, 0) ∧
    currentJob launchedP1.cfg launchedP1.desc = .ok (jobP1 descP1) := by decide +kernel
/-- A write to the last byte of the luma footprint marks the job; the byte after it marks nothing. -/
theorem witness_host_write :
    launchedP1.owned.map (fun o => (o.job.owns 0x200A, o.job.owns 0x200B)) = [(true, false)] ∧
    seen (step { launchedP1 with inputs := [.memWrite 0x200B 7] }) (fun t => t.owned.map (·.tainted)) = some [false] ∧
    seen (step { launchedP1 with inputs := [.memWrite 0x200A 7] }) (fun t => t.owned.map (·.tainted)) = some [true] := by
  decide +kernel
/-- The same job with the mark: its bands are any value, and it goes on. -/
theorem witness_tainted_band :
    let s := { launchedP1 with owned := [⟨jobP1 descP1, true⟩] }
    s.busy = true ∧ resolve encPc s.cfg s.desc = .ok (jobP1 descP1) ∧ s.rowPos.toNat < (jobP1 descP1).nbands ∧
    s.runningTainted = true ∧ s.mem.wf = true := by decide +kernel
theorem witness_ownership_ends :
    let s := { launchedP1 with busy := false, done := true }
    seen (step { s with inputs := [.regRead 0x68 4] }) (fun t => (t.owned.length, t.readData)) = some (0, 2) ∧
    seen (step { launchedP1 with inputs := [.regRead 0x68 4] }) (fun t => (t.owned.length, t.readData)) = some (1, 1) ∧
    launchedP1.owned.map (fun o => o.job.ownsDest 0x200B) = [false] ∧
    seen (step { launchedP1 with inputs := [.memRead 0x2000] }) (fun t => (t.freeIx, t.owned.length, t.busy)) =
      some (1, 1, true) ∧
    seen (step { s with inputs := [.regRead 0x08 4] }) (fun t => t.owned.length) = some 1 := by decide +kernel
/-- A line with a surface, a plane and a preset: the writes reach the registers they name, START and the polls follow. -/
theorem witness_jobLine :
    let l : JobLine := { job := decTv, a := some ⟨.rgb, 0x1000, 12⟩, bits := 8, subs := .s400, w := 1, h := 1,
                         y := some ⟨0x2000, 4⟩, m := some Preset.bt601.key }
    let s := { State.reset with inputs := l.inputs 2 ++ [.engineTurn] }
    s.busy = false ∧ l.writes.length = 17 ∧
    seen (Host.Core.run Sys2Proof.core 17 s)
      (fun t => ((t.desc.m0, t.desc.ctrl, t.desc.fmt, t.desc.yPtr, t.desc.bPtr), t.inputs)) =
      some ((76309, 2, 0x50801, 0x2000, 0),
        [.regWrite 0x64 4 1, .regRead 0x68 4, .regRead 0x68 4, .engineTurn]) := by decide +kernel

/-! ### withFetchWord -/

/-- 30 R112: the first instruction after reset is launched; with FMT still 0 it is refused for FMT (60 R294). -/
theorem test_withFetchWord :
    seen (step (State.reset.withFetchWord 32 0x00001001)) (fun t => (t.errCode, t.errInfo)) = some (.op, 0x0C) ∧
    decodeTableWord 32 0x00001001 = some encPc := by decide +kernel

end Sys2Proof.Tests
end

section
/-! The build parameters (00 R8, R9): no step changes them, and VLEN_BITS reaches no job (44 R262). -/

namespace Sys2Proof

/-- The parameters with another VLEN_BITS. -/
def Config.withVlen (c : Config) (v : VlenBits) : Config := { c with vlen := v }

end Sys2Proof

namespace Sys2Proof.Machine

/-! ### What a settled turn can be -/

/-- What an input comes to when no instruction runs for it. -/
theorem takeInput_settled {x : Input} {s t : State} (h : takeInput x s = .settled t) :
    (∃ off size v r, x = .regWrite off size v ∧ Reg.ofAccess off size = some r ∧ startsJob r v s = false ∧
      t = hostRegWrite r v s) ∨
    (∃ off size r, x = .regRead off size ∧ Reg.ofAccess off size = some r ∧ t = hostRegRead r s) ∨
    (∃ a v, x = .memWrite a v ∧ t = hostMemWrite a v s) ∨
    (∃ a, x = .memRead a ∧ t = hostMemRead a s) ∨
    (x = .engineTurn ∧ s.busy = false ∧ t = s) ∨
    (x = .hardReset ∧ t = resetBlock s) := by
  cases x with
  | regWrite off size v =>
    simp only [takeInput] at h
    split at h
    · rename_i r hr
      simp only [portWrite] at h
      split at h
      · cases h
      · rename_i hs
        cases h
        exact .inl ⟨off, size, v, r, rfl, hr, by simpa using hs, rfl⟩
    · cases h
  | regRead off size =>
    simp only [takeInput] at h
    split at h
    · rename_i r hr
      cases h
      exact .inr (.inl ⟨off, size, r, rfl, hr, rfl⟩)
    · cases h
  | memWrite a v => cases h; exact .inr (.inr (.inl ⟨a, v, rfl, rfl⟩))
  | memRead a => cases h; exact .inr (.inr (.inr (.inl ⟨a, rfl, rfl⟩)))
  | engineTurn =>
    simp only [takeInput, engineTurn] at h
    split at h
    · cases h
    · rename_i hb
      cases h
      exact .inr (.inr (.inr (.inr (.inl ⟨rfl, by simpa using hb, rfl⟩))))
  | hardReset => cases h; exact .inr (.inr (.inr (.inr (.inr ⟨rfl, rfl⟩))))

/-- A turn settles because the engine is idle with no input left, or by the next input. -/
theorem nextTurn_settled {s t : State} (h : nextTurn s = .settled t) :
    (s.inputs = [] ∧ s.busy = false ∧ t = s) ∨
    (∃ x rest, s.inputs = x :: rest ∧ takeInput x { s with inputs := rest } = .settled t) := by
  unfold nextTurn at h
  cases hi : s.inputs with
  | nil =>
    rw [hi] at h
    simp only [engineTurn] at h
    split at h
    · cases h
    · rename_i hb
      cases h
      exact .inl ⟨rfl, by simpa using hb, rfl⟩
  | cons x rest =>
    rw [hi] at h
    exact .inr ⟨x, rest, rfl, h⟩

/-! ### Every operation keeps the build parameters (00 R8) -/

@[simp] theorem resetBlock_cfg (s : State) : (resetBlock s).cfg = s.cfg := by
  rw [resetBlock, resetRegs_cfg, abandonJob_cfg]

@[simp] theorem hostRegRead_cfg (r : Reg) (s : State) : (hostRegRead r s).cfg = s.cfg := rfl

@[simp] theorem hostRegWrite_cfg (r : Reg) (v : Word) (s : State) : (hostRegWrite r v s).cfg = s.cfg := by
  cases r with
  | desc d => rw [hostRegWrite]; split <;> rfl
  | sreset =>
    rw [hostRegWrite]
    split
    · exact resetBlock_cfg s
    · rfl
  | _ => rfl

@[simp] theorem breakOwnership_cfg (a : Nat) (os : List OwnedJob) (s : State) :
    (breakOwnership a os s).2.cfg = s.cfg := by
  induction os generalizing s with
  | nil => rfl
  | cons o rest ih =>
    rw [breakOwnership]
    split
    · exact (ih _).trans (havocJob_cfg _ _)
    · exact ih s

@[simp] theorem hostMemWrite_cfg (a : Word) (v : Byte) (s : State) : (hostMemWrite a v s).cfg = s.cfg :=
  breakOwnership_cfg _ _ _

@[simp] theorem hostMemRead_cfg (a : Word) (s : State) : (hostMemRead a s).cfg = s.cfg := by
  unfold hostMemRead
  split <;> rfl

@[simp] theorem launch_cfg (i : Instr) (s : State) : (launch i s).cfg = s.cfg := by
  obtain ⟨r, -, h⟩ | ⟨job, -, h⟩ := launch_cases i s <;> simp [h]

@[simp] theorem launchIllegal_cfg (s : State) : (launchIllegal s).cfg = s.cfg := rfl

theorem takeInput_settled_cfg {x : Input} {s t : State} (h : takeInput x s = .settled t) : t.cfg = s.cfg := by
  obtain ⟨_, _, v, r, -, -, -, rfl⟩ | ⟨_, _, r, -, -, rfl⟩ | ⟨a, v, -, rfl⟩ | ⟨a, -, rfl⟩ | ⟨-, -, rfl⟩ | ⟨-, rfl⟩ :=
    takeInput_settled h
  · exact hostRegWrite_cfg r v s
  · exact hostRegRead_cfg r s
  · exact hostMemWrite_cfg a v s
  · exact hostMemRead_cfg a s
  · rfl
  · exact resetBlock_cfg s

theorem nextTurn_settled_cfg {s t : State} (h : nextTurn s = .settled t) : t.cfg = s.cfg := by
  obtain ⟨-, -, rfl⟩ | ⟨x, rest, -, hx⟩ := nextTurn_settled h
  · rfl
  · exact (takeInput_settled_cfg hx :)

theorem nextTurn_job_cfg {s u : State} (h : nextTurn s = .job u) : u.cfg = s.cfg := by
  obtain ⟨-, rfl, -⟩ | ⟨rest, -, rfl, -⟩ | ⟨_, _, _, rest, -, -, -, -, rfl⟩ := nextTurn_job h <;> rfl

theorem exec_next_cfg {i : Instr} {s t : State} (h : exec i s = .next t) : t.cfg = s.cfg := by
  obtain ⟨-, rfl⟩ | ⟨-, job, -, -, rfl⟩ := exec_next h
  · exact launch_cfg i s
  · rw [finishBand_cfg, writeBand_cfg]

/-- 00 R8: the build parameters are constant along every step. -/
theorem step_next_cfg {s t : State} (h : step s = .next t) : t.cfg = s.cfg := by
  obtain hs | ⟨u, i, hu, -, he⟩ | ⟨u, _, hu, -, -, rfl⟩ := step_next h
  · exact nextTurn_settled_cfg hs
  · exact (exec_next_cfg he).trans (nextTurn_job_cfg hu)
  · exact (launchIllegal_cfg u).trans (nextTurn_job_cfg hu)

/-! ### VLEN_BITS reaches no job (00 R9, 44 R262)

The job that a descriptor resolves to does not depend on VLEN_BITS, and the state updates of a launch and of a band
commute with a change of it. -/

/-- The same machine built with another VLEN_BITS. -/
def State.withVlen (s : State) (v : VlenBits) : State := { s with cfg := s.cfg.withVlen v }

theorem subsFactors_withVlen (v : VlenBits) (c : Config) (su : Subs) :
    subsFactors (c.withVlen v) su = subsFactors c su := by
  cases su <;> rfl

theorem makeJob_withVlen (i : Instr) (v : VlenBits) (c : Config) (d : Desc) (f : Fmt) (n : Depth) :
    makeJob i (c.withVlen v) d f n = makeJob i c d f n := by
  unfold makeJob
  rw [subsFactors_withVlen]
  rfl

theorem decodeJob_withVlen (i : Instr) (v : VlenBits) (c : Config) (d : Desc) :
    decodeJob i (c.withVlen v) d = decodeJob i c d := by
  simp only [decodeJob, makeJob_withVlen]

/-- Of the parameters the checks read MAX_DIM alone. -/
theorem checkJob_withVlen (v : VlenBits) (c : Config) (job : Job) :
    checkJob (c.withVlen v) job = checkJob c job := rfl

theorem resolve_withVlen (i : Instr) (v : VlenBits) (c : Config) (d : Desc) :
    resolve i (c.withVlen v) d = resolve i c d := by
  simp only [resolve, decodeJob_withVlen, checkJob_withVlen]

theorem launch_withVlen (i : Instr) (v : VlenBits) (s : State) :
    launch i (s.withVlen v) = (launch i s).withVlen v := by
  have hr : resolve i (s.withVlen v).cfg (s.withVlen v).desc = resolve i s.cfg s.desc := resolve_withVlen i v _ _
  unfold launch
  rw [hr]
  cases resolve i s.cfg s.desc <;> rfl

theorem havocBytes_withVlen (as : List Nat) (v : VlenBits) (s : State) :
    havocBytes as (s.withVlen v) = (havocBytes as s).withVlen v := by
  induction as generalizing s with
  | nil => rfl
  | cons a rest ih =>
    exact ih { s with mem := s.mem.setByte a (Config.freeByte s.freeIx), freeIx := s.freeIx + 1 }

theorem writeBand_withVlen (sts : List Store) (es : List Elem) (v : VlenBits) (s : State) :
    writeBand sts es (s.withVlen v) = (writeBand sts es s).withVlen v := by
  have ht : (s.withVlen v).runningTainted = s.runningTainted := rfl
  unfold writeBand
  rw [ht]
  split
  · exact havocBytes_withVlen _ v s
  · rfl

theorem finishBand_withVlen (job : Job) (v : VlenBits) (s : State) :
    finishBand job (s.withVlen v) = (finishBand job s).withVlen v := by
  have hp : (s.withVlen v).rowPos = s.rowPos := rfl
  unfold finishBand
  rw [hp]
  split <;> rfl

theorem bandStep_withVlen {i : Instr} {band : Job → Memory → Nat → List Store} {s t : State} (v : VlenBits)
    (h : bandStep i band s = .next t) : bandStep i band (s.withVlen v) = .next (t.withVlen v) := by
  obtain ⟨job, hr, hj, rfl⟩ := bandStep_next h
  have hr' : resolve i (s.withVlen v).cfg (s.withVlen v).desc = .ok job := (resolve_withVlen i v _ _).trans hr
  rw [← finishBand_withVlen, ← writeBand_withVlen]
  exact bandStep_eq hr' hj

theorem exec_withVlen {i : Instr} {s t : State} (v : VlenBits) (h : exec i s = .next t) :
    exec i (s.withVlen v) = .next (t.withVlen v) := by
  have hb : (s.withVlen v).busy = s.busy := rfl
  rw [exec_eq_runJob, runJob] at h ⊢
  rw [hb]
  split at h
  · rw [if_pos ‹_›]
    exact bandStep_withVlen v h
  · rw [if_neg ‹_›, launch_withVlen, Host.Outcome.next.inj h]

/-- U2H of one 8-bit gray pixel, accepted and about to run its only band. -/
def bandOfOnePixel : State :=
  { State.reset with
    desc := { Desc.zero with
      ctrl := encode .u2h, fmt := 0x888, width := 1, height := 1
      aPtr := 0x1000, aStride := 16, bPtr := 0x2000, bStride := 16 }
    busy := true }

/-- A job that answers a next state under both builds, while CAP tells the builds apart. -/
theorem witness_exec_withVlen :
    ∃ t, exec .u2h bandOfOnePixel = .next t ∧
      exec .u2h (bandOfOnePixel.withVlen .v512) = .next (t.withVlen .v512) ∧ t.done = true ∧
      readReg (bandOfOnePixel.withVlen .v512) .cap ≠ readReg bandOfOnePixel .cap := by
  let job := makeJob .u2h Config.default bandOfOnePixel.desc ⟨.gray, some .gray, 8, .s444, .p3⟩ .d8
  have hr : resolve .u2h bandOfOnePixel.cfg bandOfOnePixel.desc = .ok job := by decide +kernel
  have hj : bandOfOnePixel.rowPos.toNat < job.nbands := by decide +kernel
  have hlast : bandOfOnePixel.rowPos.toNat + 1 = job.nbands := by decide +kernel
  have hcap : readReg (bandOfOnePixel.withVlen .v512) .cap ≠ readReg bandOfOnePixel .cap := by decide +kernel
  have he : exec .u2h bandOfOnePixel = .next _ := bandStep_eq (band := u2hBand) hr hj
  refine ⟨_, he, exec_withVlen .v512 he, ?_, hcap⟩
  rw [finishBand_done, writeBand_rowPos, if_pos hlast]

/-- Settles O49: by what a step can do, and because the job resolved from a descriptor ignores VLEN_BITS while the
state updates of a launch and of a band commute with it. -/
theorem buildParametersAreConstant : Obligations.BuildParametersAreConstant :=
  ⟨fun _ _ h => step_next_cfg h, fun _ _ _ v h => exec_withVlen v h⟩

end Sys2Proof.Machine
end

section
/-! The register port (10 R20 to R41): which access names which register, what a read and a write of each register come
to as one step, and the statements about single accesses. -/

namespace Sys2Proof

/-! ### Offsets and registers (10 R20, R21) -/

/-- The registers stand in the order of their offsets, one word apart. -/
theorem Reg.all_offsets : Reg.all.map Reg.offset = (List.range 32).map (4 * ·) := by decide

theorem Reg.offset_of_getElem? {k : Nat} {r : Reg} (h : Reg.all[k]? = some r) : r.offset = 4 * k := by
  have hk : (Reg.all.map Reg.offset)[k]? = some r.offset := by rw [List.getElem?_map, h]; rfl
  rw [Reg.all_offsets, List.getElem?_map] at hk
  obtain ⟨j, hj, hjr⟩ := Option.map_eq_some_iff.1 hk
  obtain ⟨_, hjk⟩ := List.getElem?_eq_some_iff.1 hj
  rw [List.getElem_range] at hjk
  omega

theorem DescReg.offset_bounds (d : DescReg) : d.offset % 4 = 0 ∧ 0x08 ≤ d.offset ∧ d.offset ≤ 0x60 := by
  cases d <;> decide

theorem Reg.offset_bounds (r : Reg) : r.offset % 4 = 0 ∧ r.offset ≤ 0x7C := by
  cases r with
  | desc d =>
    obtain ⟨halign, -, hle⟩ := d.offset_bounds
    exact ⟨halign, hle.trans (by decide)⟩
  | _ => decide

@[simp] theorem Reg.ofAccess_offset (r : Reg) : Reg.ofAccess r.offset 4 = some r := by
  cases r with
  | desc d => cases d <;> rfl
  | _ => rfl

/-- The port takes the 4-byte access at a register's own offset and no other. -/
theorem Reg.ofAccess_eq_some {off size : Nat} {r : Reg} :
    Reg.ofAccess off size = some r ↔ size = 4 ∧ off = r.offset := by
  constructor
  · intro h
    unfold Reg.ofAccess at h
    split at h
    · rename_i haccess
      have := Reg.offset_of_getElem? h
      exact ⟨haccess.1, by omega⟩
    · cases h
  · rintro ⟨rfl, rfl⟩
    exact r.ofAccess_offset

/-- Every aligned word offset of the block is the offset of a register. -/
theorem Reg.exists_offset {off : Nat} (halign : off % 4 = 0) (hle : off ≤ 0x7C) : ∃ r : Reg, r.offset = off := by
  have hk : off / 4 < Reg.all.length := by
    have : Reg.all.length = 32 := rfl
    omega
  have := Reg.offset_of_getElem? (List.getElem?_eq_getElem hk)
  exact ⟨Reg.all[off / 4], by omega⟩

/-- 10 R20: an access of another size, at another alignment or past the block names no register. -/
theorem Reg.ofAccess_eq_none {off size : Nat} (h : size ≠ 4 ∨ off % 4 ≠ 0 ∨ 0x7C < off) :
    Reg.ofAccess off size = none := by
  rw [Option.eq_none_iff_forall_ne_some]
  intro r hr
  obtain ⟨hsize, hoff⟩ := Reg.ofAccess_eq_some.1 hr
  have := r.offset_bounds
  omega

end Sys2Proof

namespace Sys2Proof.Machine

/-! ### A read after a write of the descriptor, and the fields of CAP -/

theorem Desc.get_set (d : Desc) (r e : DescReg) (v : Word) : (d.set r v).get e = if e = r then v else d.get e := by
  cases r <;> cases e <;> rfl

@[simp] theorem Desc.get_set_same (d : Desc) (r : DescReg) (v : Word) : (d.set r v).get r = v := by
  rw [Desc.get_set, if_pos rfl]

theorem Desc.get_set_other (d : Desc) {r e : DescReg} (v : Word) (h : e ≠ r) : (d.set r v).get e = d.get e := by
  rw [Desc.get_set, if_neg h]

@[simp] theorem Desc.get_zero (r : DescReg) : Desc.zero.get r = 0 := by
  cases r <;> rfl

/-- CAP as a number: none of its fields runs into the next (10 R25). -/
theorem capWord_toNat (c : Config) :
    (capWord c).toNat =
      vbytes c.vlen + 16 * 2 ^ 8 + 1 * 2 ^ 16 + nrndBit c.narrowRnd * 2 ^ 19 + sy410Value c.sy410 * 2 ^ 20 := by
  have hv : vbytes c.vlen ≤ 64 := by cases c.vlen <;> decide
  have hn : nrndBit c.narrowRnd ≤ 1 := by cases c.narrowRnd <;> decide
  have hs : sy410Value c.sy410 ≤ 4 := by cases c.sy410 <;> decide
  rw [capWord, BitVec.toNat_ofNat, Nat.mod_eq_of_lt (by omega)]

/-- The fields of CAP, each at its place (10 R25). -/
theorem capWord_fields (c : Config) :
    field (capWord c) 0 8 = vbytes c.vlen ∧ field (capWord c) 8 8 = 16 ∧ field (capWord c) 16 1 = 1 ∧
    field (capWord c) 17 1 = 0 ∧ field (capWord c) 18 1 = 0 ∧ field (capWord c) 19 1 = nrndBit c.narrowRnd ∧
    field (capWord c) 20 4 = sy410Value c.sy410 ∧ field (capWord c) 24 8 = 0 := by
  have hv : vbytes c.vlen ≤ 64 := by cases c.vlen <;> decide
  have hn : nrndBit c.narrowRnd ≤ 1 := by cases c.narrowRnd <;> decide
  have hs : sy410Value c.sy410 ≤ 4 := by cases c.sy410 <;> decide
  simp only [field, capWord_toNat]
  omega

/-! ### What a read returns -/

theorem statusWord_getLsbD (s : State) (k : Nat) :
    s.statusWord.getLsbD k =
      if k = 0 then s.busy else if k = 1 then s.done else if k = 2 then s.err else false := by
  have hlow : s.statusWord = (BitVec.ofBool s.err ++ BitVec.ofBool s.done ++ BitVec.ofBool s.busy).setWidth 32 := by
    unfold State.statusWord
    cases s.busy <;> cases s.done <;> cases s.err <;> rfl
  rw [hlow, BitVec.getLsbD_setWidth, BitVec.getLsbD_append, BitVec.getLsbD_append]
  match k with
  | 0 => simp
  | 1 => simp
  | 2 => simp
  | k + 3 => simp

/-- 10 R22 to R34: the value of each register is the one its rule gives. -/
theorem registerReads_readReg (s : State) (r : Reg) : RegisterReads s r.offset (readReg s r) := by
  unfold RegisterReads
  cases r with
  | desc d => cases d <;> simp [Reg.offset, DescReg.offset, readReg, Desc.get]
  | status => simpa [Reg.offset, readReg] using statusWord_getLsbD s
  | errCode => cases h : s.errCode <;> simp [Reg.offset, readReg, h, ErrCode.code]
  | errInfo =>
    have hval : (s.errInfo.setWidth 32).toNat = s.errInfo.toNat := BitVec.toNat_setWidth_of_le (by decide)
    simpa [Reg.offset, readReg] using hval
  | _ => simp [Reg.offset, readReg, idWord]

/-! ### One access as one step -/

theorem startsJob_of_ne {r : Reg} (h : r ≠ .start) (v : Word) (s : State) : startsJob r v s = false := by
  simp [startsJob, h]

theorem startsJob_desc (d : DescReg) (v : Word) (s : State) : startsJob (.desc d) v s = false :=
  startsJob_of_ne (r := .desc d) nofun v s

section
variable {s : State} {rest : List Input} {r : Reg} {v : Word}

theorem step_regRead (hi : s.inputs = .regRead r.offset 4 :: rest) :
    step s = .next (hostRegRead r { s with inputs := rest }) := by
  simp [step, nextTurn, hi, takeInput]

theorem step_regWrite (hi : s.inputs = .regWrite r.offset 4 v :: rest) (hs : startsJob r v s = false) :
    step s = .next (hostRegWrite r v { s with inputs := rest }) := by
  have hs' : startsJob r v { s with inputs := rest } = false := hs
  simp [step, nextTurn, hi, takeInput, portWrite, hs']

/-- A START that launches gives the turn to the job that CTRL names (10 R29). -/
theorem nextTurn_start (hi : s.inputs = .regWrite 0x64 4 v :: rest) (hv : v.getLsbD 0 = true)
    (hb : s.busy = false) : nextTurn s = .job { s with inputs := rest } := by
  have hacc : Reg.ofAccess 0x64 4 = some .start := Reg.ofAccess_offset .start
  simp [nextTurn, hi, takeInput, hacc, portWrite, startsJob, hv, hb]

/-- The read-only registers ignore a write (10 R41). -/
theorem step_write_readOnly (hr : r = .id ∨ r = .cap ∨ r = .errCode ∨ r = .errInfo ∨ r = .rowPos)
    (hi : s.inputs = .regWrite r.offset 4 v :: rest) : step s = .next { s with inputs := rest } := by
  obtain rfl | rfl | rfl | rfl | rfl := hr <;> exact step_regWrite hi (startsJob_of_ne (by decide) v s)

/-- A read of a register other than STATUS returns its value and changes nothing else. -/
theorem step_read_keeps (hr : r ≠ .status) (hi : s.inputs = .regRead r.offset 4 :: rest) :
    step s = .next { s with inputs := rest, readData := readReg s r } := by
  have hval : readReg { s with inputs := rest } r = readReg s r := by cases r <;> rfl
  rw [step_regRead hi, hostRegRead, hval, if_neg fun h => hr h.1]

end

/-- A read at any register offset: the step it is, and the value its rule gives. -/
theorem step_read_any {s : State} {rest : List Input} {off : Nat} (halign : off % 4 = 0) (hle : off ≤ 0x7C)
    (hi : s.inputs = .regRead off 4 :: rest) :
    ∃ r : Reg, r.offset = off ∧ step s = .next (hostRegRead r { s with inputs := rest }) ∧
      RegisterReads s off (hostRegRead r { s with inputs := rest }).readData := by
  obtain ⟨r, rfl⟩ := Reg.exists_offset halign hle
  exact ⟨r, rfl, step_regRead hi, registerReads_readReg { s with inputs := rest } r⟩

/-- What START refuses or accepts for the instruction that CTRL names (10 R29, 44 R250). -/
theorem exec_eq_launch {i : Instr} {s : State} (hb : s.busy = false) : exec i s = .next (launch i s) := by
  rw [exec_eq_runJob, runJob, hb]
  rfl

/-! ### The statements about single accesses -/

/-- Settles O8: an access names a register exactly when it is the word at that register's offset. -/
theorem registerPortTakesAlignedWordsOnly : Obligations.RegisterPortTakesAlignedWordsOnly := by
  refine ⟨fun off halign hle => ?_, fun s rest off size v hbad => ?_⟩
  · obtain ⟨r, rfl⟩ := Reg.exists_offset halign hle
    exact ⟨r, r.ofAccess_offset, rfl⟩
  · have hnone := Reg.ofAccess_eq_none hbad
    constructor <;> intro hi <;> simp [step, nextTurn, hi, takeInput, hnone]

/-- Settles O9, by what a descriptor reads as after one of its registers is replaced. -/
theorem descriptorWriteWhileIdleStores : Obligations.DescriptorWriteWhileIdleStores := by
  intro s rest d v hb hi
  have hw : hostRegWrite (.desc d) v { s with inputs := rest } =
      { s with inputs := rest, desc := s.desc.set d v } := by simp [hostRegWrite, hb]
  refine ⟨_, step_regWrite (r := .desc d) hi (startsJob_desc d v s), ?_, fun e he => ?_, ?_⟩ <;> rw [hw]
  · exact s.desc.get_set_same d v
  · exact s.desc.get_set_other v he

/-- Settles O11: each register's read value by its rule, and the writes that a read-only register ignores. -/
theorem readOnlyAndWriteOnlyRegisters : Obligations.ReadOnlyAndWriteOnlyRegisters := by
  refine ⟨?_, ?_, fun s rest off halign hle hi => ?_⟩
  · rintro s rest _ v (rfl | rfl | rfl | rfl | rfl) hi
    · exact step_write_readOnly (r := .id) (by decide) hi
    · exact step_write_readOnly (r := .cap) (by decide) hi
    · exact step_write_readOnly (r := .errCode) (by decide) hi
    · exact step_write_readOnly (r := .errInfo) (by decide) hi
    · exact step_write_readOnly (r := .rowPos) (by decide) hi
  · rintro s rest _ (rfl | rfl) hi
    · exact step_read_keeps (r := .start) (by decide) hi
    · exact step_read_keeps (r := .sreset) (by decide) hi
  · obtain ⟨r, rfl, hstep, hreads⟩ := step_read_any halign hle hi
    refine ⟨_, hstep, hreads, rfl, fun hne => if_neg fun h => hne ?_⟩
    rw [h.1]
    rfl

/-- Settles O12, by the fields of CAP as numbers. -/
theorem identityAndCapabilities : Obligations.IdentityAndCapabilities := by
  refine ⟨fun s rest hi => step_read_keeps (r := .id) (by decide) hi,
    fun s rest v hi => step_write_readOnly (r := .id) (by decide) hi,
    fun s rest v hi => step_write_readOnly (r := .cap) (by decide) hi,
    fun s rest hi => ⟨capWord s.cfg, step_read_keeps (r := .cap) (by decide) hi, ?_⟩⟩
  obtain ⟨hvbytes, hprec, hf16, hlift, htf, hnrnd, hsy, hres⟩ := capWord_fields s.cfg
  refine ⟨hvbytes.trans ?_, hprec, hf16, hlift, htf, hnrnd.trans ?_, hsy.trans ?_, hres, fun hdef => ?_⟩
  · cases s.cfg.vlen <;> rfl
  · cases s.cfg.narrowRnd <;> rfl
  · cases s.cfg.sy410 <;> rfl
  · rw [hdef]
    rfl

/-- Settles O13: the two writes as one step each; the level of irq is then read off the new state. -/
theorem acknowledgeAndInterruptLevel : Obligations.AcknowledgeAndInterruptLevel := by
  intro s rest v
  constructor <;> intro hi
  · exact ⟨_, step_regWrite (r := .status) hi (startsJob_of_ne (by decide) v s), rfl, rfl⟩
  · exact ⟨_, step_regWrite (r := .irqEn) hi (startsJob_of_ne (by decide) v s), rfl, rfl⟩

/-- Settles O14: a START that launches gives CTRL's job its turn, and any other write to START is ignored. -/
theorem startDoorbell : Obligations.StartDoorbell := by
  refine ⟨fun s rest v hi => ⟨?_, fun hno => ?_⟩,
    fun s rest hi => step_read_keeps (r := .start) (by decide) hi⟩
  · rintro ⟨hv, hb⟩
    have hturn := nextTurn_start hi hv hb
    constructor
    · intro i hd
      simp only [step, hturn, hd]
      exact exec_eq_launch hb
    · intro e hd
      refine ⟨launchIllegal { s with inputs := rest }, ?_, rfl⟩
      simp [step, hturn, hd, illegalTurn, hb]
  · have hs : startsJob .start v s = false := by
      obtain hv | hb := hno
      · simp only [startsJob, hv, Bool.and_false, Bool.false_and]
      · simp [startsJob, hb]
    exact step_regWrite (r := .start) hi hs

end Sys2Proof.Machine
end

section
/-! Reset, the BUSY lock and the invariant of every run (10 R23, R28 to R32, R40; 70 R330, R332).

`Safe` looks at the registers, at the canonical form of memory and at which job is the newest owned one. So the host's
memory accesses, whose frames say that they reach memory, the free values and the marks of owned jobs alone, cannot
break it; the writes of the port, a launch and a band are taken one by one. -/

namespace Sys2Proof.Machine

/-! ### Frames of the host's memory accesses -/

theorem havocBytes_frame (as : List Nat) (s : State) :
    ∃ m n, havocBytes as s = { s with mem := m, freeIx := n } := by
  induction as generalizing s with
  | nil => exact ⟨s.mem, s.freeIx, rfl⟩
  | cons a rest ih => exact ih { s with mem := s.mem.setByte a (Config.freeByte s.freeIx), freeIx := s.freeIx + 1 }

theorem breakOwnership_frame (a : Nat) (os : List OwnedJob) (s : State) :
    ∃ m n, (breakOwnership a os s).2 = { s with mem := m, freeIx := n } := by
  induction os generalizing s with
  | nil => exact ⟨s.mem, s.freeIx, rfl⟩
  | cons o rest ih =>
    rw [breakOwnership]
    split
    · obtain ⟨m, n, hhavoc⟩ : ∃ m n, havocJob o.job s = { s with mem := m, freeIx := n } := havocBytes_frame _ s
      obtain ⟨m', n', hrest⟩ := ih (havocJob o.job s)
      exact ⟨m', n', by rw [hrest, hhavoc]⟩
    · exact ih s

/-- The host's write to memory reaches memory, the free values and the marks of owned jobs, and nothing else. -/
theorem hostMemWrite_frame (a : Word) (v : Byte) (s : State) :
    ∃ m n os, hostMemWrite a v s = { s with mem := m, freeIx := n, owned := os } ∧
      os.map OwnedJob.job = s.owned.map OwnedJob.job ∧ (s.mem.wf = true → m.wf = true) := by
  let s' : State := { s with mem := s.mem.setByte a.toNat v }
  obtain ⟨m, n, hframe⟩ := breakOwnership_frame a.toNat s.owned s'
  refine ⟨m, n, (breakOwnership a.toNat s.owned s').1, ?_, breakOwnership_jobs _ _ _, fun hwf => ?_⟩
  · simp only [hostMemWrite]
    rw [hframe]
  · have hm : (breakOwnership a.toNat s.owned s').2.mem.wf = true := breakOwnership_wf (wf_setByte hwf _ _)
    rwa [hframe] at hm

theorem hostMemRead_frame (a : Word) (s : State) :
    ∃ b n, hostMemRead a s = { s with memData := b, freeIx := n } := by
  unfold hostMemRead
  split
  · exact ⟨_, _, rfl⟩
  · exact ⟨_, s.freeIx, rfl⟩

/-! ### Reset (10 R40, 70 R330, R332) -/

theorem abandonJob_of_idle {s : State} (hb : s.busy = false) : abandonJob s = s := by
  rw [abandonJob, hb]
  rfl

/-- Reset spoils nothing, or the destination elements of the running job. -/
theorem abandonJob_cases (s : State) :
    abandonJob s = s ∨ ∃ job, currentJob s.cfg s.desc = .ok job ∧ abandonJob s = havocJob job s := by
  unfold abandonJob
  split
  · cases hj : currentJob s.cfg s.desc with
    | ok job => exact .inr ⟨job, rfl, rfl⟩
    | error r => exact .inl rfl
  · exact .inl rfl

theorem abandonJob_wf {s : State} (h : s.mem.wf = true) : (abandonJob s).mem.wf = true := by
  obtain hs | ⟨job, -, hs⟩ := abandonJob_cases s <;> rw [hs]
  · exact h
  · exact havocElems_wf h

/-- Memory outside the destination elements of the job in the registers survives a reset (70 R332). -/
theorem resetBlock_sameOutside {s : State} {job : Job} (h : s.mem.wf = true)
    (hjob : currentJob s.cfg s.desc = .ok job) : SameOutside job.destElems s.mem (resetBlock s).mem := by
  intro a ha
  rw [resetBlock, resetRegs_mem]
  obtain hs | ⟨job', hjob', hs⟩ := abandonJob_cases s <;> rw [hs]
  obtain rfl : job' = job := Except.ok.inj (hjob'.symm.trans hjob)
  exact havocElems_other h ha

theorem resetBlock_inputs (s : State) : (resetBlock s).inputs = s.inputs := by
  rw [resetBlock, resetRegs_inputs, abandonJob_inputs]

/-- SRESET with bit 0 set, and the pin, reset the block in one step. -/
theorem step_reset {s : State} {rest : List Input} {v : Word}
    (h : (s.inputs = .regWrite 0x7C 4 v :: rest ∧ v.getLsbD 0 = true) ∨ s.inputs = .hardReset :: rest) :
    step s = .next (resetBlock { s with inputs := rest }) := by
  obtain ⟨hi, hv⟩ | hi := h
  · rw [step_regWrite (r := .sreset) hi (startsJob_of_ne (by decide) v s), hostRegWrite, if_pos hv]
  · simp [step, nextTurn, hi, takeInput]

/-- Settles O57: reset leaves the registers of `resetRegs`, and of memory spoils at most the running job's
destination elements. -/
theorem resetAbandonsTheJob : Obligations.ResetAbandonsTheJob := by
  refine ⟨fun s rest v hwf hreset => ?_, fun s rest v hi hv => ?_⟩
  · let s' : State := { s with inputs := rest }
    have hidle : s.busy = false → (resetBlock s').mem = s.mem := fun hb => by
      rw [resetBlock, resetRegs_mem, abandonJob_of_idle (s := s') hb]
    exact ⟨resetBlock s', step_reset hreset, Desc.get_zero, rfl, rfl, rfl, rfl, rfl, rfl, rfl, rfl, rfl,
      resetBlock_inputs s', resetBlock_cfg s', hidle, fun job hjob => resetBlock_sameOutside (s := s') hwf hjob⟩
  · rw [step_regWrite (r := .sreset) hi (startsJob_of_ne (by decide) v s), hostRegWrite, hv]
    rfl

/-! ### The BUSY lock (10 R23) -/

/-- The descriptor is as before, or a reset has cleared it and stopped the engine. -/
def DescKept (s t : State) : Prop := t.desc = s.desc ∨ (t.desc = Desc.zero ∧ t.busy = false)

theorem resetBlock_descKept (s : State) : DescKept s (resetBlock s) := .inr ⟨rfl, rfl⟩

theorem hostRegWrite_descKept {r : Reg} {v : Word} {s : State} (hb : s.busy = true) :
    DescKept s (hostRegWrite r v s) := by
  cases r with
  | desc d => rw [hostRegWrite, if_pos hb]; exact .inl rfl
  | sreset =>
    rw [hostRegWrite]
    split
    · exact resetBlock_descKept s
    · exact .inl rfl
  | _ => exact .inl rfl

theorem takeInput_settled_descKept {x : Input} {s t : State} (hb : s.busy = true)
    (h : takeInput x s = .settled t) : DescKept s t := by
  obtain ⟨_, _, v, r, -, -, -, rfl⟩ | ⟨_, _, r, -, -, rfl⟩ | ⟨a, v, -, rfl⟩ | ⟨a, -, rfl⟩ | ⟨-, -, rfl⟩ | ⟨-, rfl⟩ :=
    takeInput_settled h
  · exact hostRegWrite_descKept hb
  · exact .inl rfl
  · obtain ⟨m, n, os, hframe, -, -⟩ := hostMemWrite_frame a v s
    rw [hframe]
    exact .inl rfl
  · obtain ⟨b, n, hframe⟩ := hostMemRead_frame a s
    rw [hframe]
    exact .inl rfl
  · exact .inl rfl
  · exact resetBlock_descKept s

theorem launch_desc (i : Instr) (s : State) : (launch i s).desc = s.desc := by
  obtain ⟨r, -, h⟩ | ⟨job, -, h⟩ := launch_cases i s <;> simp [h]

theorem exec_next_desc {i : Instr} {s t : State} (h : exec i s = .next t) : t.desc = s.desc := by
  obtain ⟨-, rfl⟩ | ⟨-, job, -, -, rfl⟩ := exec_next h
  · exact launch_desc i s
  · rw [finishBand_desc, writeBand_desc]

theorem nextTurn_job_desc {s u : State} (h : nextTurn s = .job u) : u.desc = s.desc := by
  obtain ⟨-, rfl, -⟩ | ⟨rest, -, rfl, -⟩ | ⟨_, _, _, rest, -, -, -, -, rfl⟩ := nextTurn_job h <;> rfl

/-- 10 R23: while BUSY no step but a reset changes the descriptor. -/
theorem step_descKept {s t : State} (hb : s.busy = true) (h : step s = .next t) : DescKept s t := by
  obtain hs | ⟨u, i, hu, -, he⟩ | ⟨u, _, hu, -, -, rfl⟩ := step_next h
  · obtain ⟨-, -, rfl⟩ | ⟨x, rest, -, hx⟩ := nextTurn_settled hs
    · exact .inl rfl
    · exact takeInput_settled_descKept (s := { s with inputs := rest }) hb hx
  · exact .inl ((exec_next_desc he).trans (nextTurn_job_desc hu))
  · exact .inl (nextTurn_job_desc (u := u) hu)

/-- While BUSY a write to the descriptor or to START is ignored. -/
theorem step_write_locked {s : State} {rest : List Input} {r : Reg} {v : Word} (hb : s.busy = true)
    (hr : (∃ d, r = .desc d) ∨ r = .start) (hi : s.inputs = .regWrite r.offset 4 v :: rest) :
    step s = .next { s with inputs := rest } := by
  obtain ⟨d, rfl⟩ | rfl := hr
  · rw [step_regWrite hi (startsJob_desc d v s), hostRegWrite, if_pos hb]
  · exact step_regWrite hi (by simp [startsJob, hb])

/-- Settles O10: the accesses to the port while BUSY one by one, and by what a step can do. -/
theorem busyLocksTheDescriptor : Obligations.BusyLocksTheDescriptor := by
  refine ⟨fun s rest off v hb hi => ⟨?_, ?_, ?_, ?_⟩, fun s rest off hb halign hle hi => ?_,
    fun s t hb h => step_descKept hb h⟩
  · rintro (⟨d, rfl⟩ | rfl)
    · exact step_write_locked (r := .desc d) hb (.inl ⟨d, rfl⟩) hi
    · exact step_write_locked (r := .start) hb (.inr rfl) hi
  · rintro rfl
    exact step_regWrite (r := .status) hi (startsJob_of_ne (by decide) v s)
  · rintro rfl
    exact step_regWrite (r := .irqEn) hi (startsJob_of_ne (by decide) v s)
  · rintro rfl hv
    exact ⟨_, step_reset (.inl ⟨hi, hv⟩), rfl, rfl⟩
  · obtain ⟨r, -, hstep, hreads⟩ := step_read_any halign hle hi
    exact ⟨_, hstep, hreads, rfl, hb⟩

/-! ### The checks of START, as far as the invariant needs them -/

/-- A refusal that leaves a record: a code other than none, at a register whose offset is not 0 (60 R291). -/
def Refused.Named (r : Refused) : Prop := r.code ≠ .none ∧ ∃ d, r.reg = .desc d

/-- The ERRINFO of a named refusal is not 0. -/
theorem Refused.Named.errInfo_ne_zero {r : Refused} (h : r.Named) : BitVec.ofNat 8 r.reg.offset ≠ 0 := by
  obtain ⟨-, d, hd⟩ := h
  rw [hd]
  cases d <;> decide

theorem Refused.named_of_code {code : ErrCode} (h : code ≠ .none) (d : DescReg) :
    Refused.Named ⟨code, .desc d⟩ := ⟨h, d, rfl⟩

/-- The encoding checks refuse by name, or give the job made of the descriptor's fields. -/
theorem decodeJob_cases (i : Instr) (c : Config) (d : Desc) :
    (∃ r, decodeJob i c d = .error r ∧ r.Named) ∨ ∃ f n, decodeJob i c d = .ok (makeJob i c d f n) := by
  unfold decodeJob
  cases decodeFmt d.fmt with
  | error e => exact .inl ⟨_, rfl, Refused.named_of_code (by decide) _⟩
  | ok f =>
    simp only
    split
    · exact .inl ⟨_, rfl, Refused.named_of_code (by decide) _⟩
    · cases effectiveDepth i f with
      | none => exact .inl ⟨_, rfl, Refused.named_of_code (by decide) _⟩
      | some n =>
        simp only
        split
        · exact .inl ⟨_, rfl, Refused.named_of_code (by decide) _⟩
        · split
          · exact .inl ⟨_, rfl, Refused.named_of_code (by decide) _⟩
          · exact .inr ⟨f, n, rfl⟩

/-- A check that fails names its code and a register of the descriptor. -/
def NamesItsCause (o : Option Refused) : Prop := ∀ r, o = some r → r.Named

theorem namesItsCause_none : NamesItsCause none := nofun

theorem namesItsCause_ite {p : Prop} [Decidable p] {code : ErrCode} {d : DescReg} {o : Option Refused}
    (h : code ≠ .none) (ho : NamesItsCause o) : NamesItsCause (if p then some ⟨code, .desc d⟩ else o) := by
  split
  · rintro _ ⟨⟩
    exact Refused.named_of_code h d
  · exact ho

theorem namesItsCause_firstOf {l : List (Option Refused)} (h : ∀ o ∈ l, NamesItsCause o) :
    NamesItsCause (firstOf l) := fun r hr => h (some r) (firstOf_eq_some hr) r rfl

theorem namesItsCause_planes {check : Plane → Option Refused} (h : ∀ p, NamesItsCause (check p)) (ps : List Plane) :
    NamesItsCause (firstOf (ps.map check)) := by
  refine namesItsCause_firstOf fun o ho => ?_
  obtain ⟨p, -, rfl⟩ := List.mem_map.1 ho
  exact h p

theorem dimCheck_names (c : Config) (job : Job) : NamesItsCause (dimCheck c job) :=
  namesItsCause_ite (by decide) (namesItsCause_ite (by decide) namesItsCause_none)

theorem nullCheck_names (p : Plane) : NamesItsCause (nullCheck p) :=
  namesItsCause_ite (by decide) namesItsCause_none

theorem alignCheck_names (p : Plane) : NamesItsCause (alignCheck p) :=
  namesItsCause_ite (by decide) (namesItsCause_ite (by decide) namesItsCause_none)

theorem strideCheck_names (p : Plane) : NamesItsCause (strideCheck p) :=
  namesItsCause_ite (by decide) namesItsCause_none

theorem rangeCheck_names (p : Plane) : NamesItsCause (rangeCheck p) :=
  namesItsCause_ite (by decide) namesItsCause_none

theorem overlapCheck_names (all : List Plane) (p : Plane) : NamesItsCause (overlapCheck all p) :=
  namesItsCause_ite (by decide) namesItsCause_none

/-- Checks d to i of 60 R293. -/
theorem checkJob_names (c : Config) (job : Job) : NamesItsCause (checkJob c job) := by
  refine namesItsCause_firstOf ?_
  simp only [List.mem_cons, List.not_mem_nil, or_false, forall_eq_or_imp, forall_eq]
  exact ⟨dimCheck_names c job, namesItsCause_planes nullCheck_names _, namesItsCause_planes alignCheck_names _,
    namesItsCause_planes strideCheck_names _, namesItsCause_planes rangeCheck_names _,
    namesItsCause_planes (overlapCheck_names job.planes) _⟩

/-- Every refusal of a descriptor is named (60 R291). -/
theorem resolve_named {i : Instr} {c : Config} {d : Desc} {r : Refused} (h : resolve i c d = .error r) :
    r.Named := by
  unfold resolve at h
  obtain ⟨q, hq, hnamed⟩ | ⟨f, n, hj⟩ := decodeJob_cases i c d
  · rw [hq] at h
    cases h
    exact hnamed
  · rw [hj] at h
    simp only at h
    cases hc : checkJob c (makeJob i c d f n) with
    | none => rw [hc] at h; cases h
    | some q =>
      rw [hc] at h
      cases h
      exact checkJob_names c _ _ hc

theorem sy410Value_pos (y : Sy410) : 0 < sy410Value y := by
  cases y <;> decide

theorem subsFactors_pos (c : Config) (su : Subs) : 0 < (subsFactors c su).1 ∧ 0 < (subsFactors c su).2 := by
  cases su with
  | s410 => exact ⟨Nat.succ_pos 3, sy410Value_pos c.sy410⟩
  | _ => simp [subsFactors]

/-- No dimension of a job that passes E_DIM is 0 (60 R297). -/
theorem dims_pos_of_dimCheck {c : Config} {job : Job} (h : dimCheck c job = none) : 0 < job.w ∧ 0 < job.h := by
  unfold dimCheck at h
  split at h
  · cases h
  · split at h
    · cases h
    · omega

/-- A legal job has a band to run: its height is not 0 and its vertical factor is not 0. -/
theorem nbands_pos_of_resolve {i : Instr} {c : Config} {d : Desc} {job : Job} (h : resolve i c d = .ok job) :
    0 < job.nbands := by
  obtain ⟨hdecode, hcheck⟩ := resolve_eq_ok.1 h
  have hsy : 0 < job.sy := by
    obtain ⟨r, hr, -⟩ | ⟨f, n, hj⟩ := decodeJob_cases i c d
    · cases hr.symm.trans hdecode
    · obtain rfl := Except.ok.inj (hj.symm.trans hdecode)
      exact (subsFactors_pos c f.subs).2
  have hh : 0 < job.h := (dims_pos_of_dimCheck (checkJob_eq_none hcheck).1).2
  exact Nat.div_pos (by omega) hsy

theorem currentJob_eq_ok {c : Config} {d : Desc} {i : Instr} {job : Job} (hd : decode d.ctrl = .ok i)
    (h : resolve i c d = .ok job) : currentJob c d = .ok job := by
  simp only [currentJob, hd, h]

/-! ### The invariant -/

/-- Of the record of owned jobs the invariant sees the newest job alone. -/
theorem jobUnderway_iff {s : State} :
    JobUnderway s ↔ (s.busy = true → ∃ job, currentJob s.cfg s.desc = .ok job ∧ s.rowPos.toNat < job.nbands ∧
      (s.owned.map OwnedJob.job).head? = some job) := by
  have hhead : ∀ job, (∃ tainted rest, s.owned = ⟨job, tainted⟩ :: rest) ↔
      (s.owned.map OwnedJob.job).head? = some job := by
    intro job
    cases s.owned with
    | nil => simp
    | cons o rest => obtain ⟨j, t⟩ := o; simp
  simp only [JobUnderway, hhead]

theorem jobUnderway_of_idle {s : State} (hb : s.busy = false) : JobUnderway s := fun h => by
  rw [hb] at h
  cases h

/-- The invariant sees neither the inputs, the values last read nor the count of free values, of memory only its
canonical form, and of the owned jobs not whether they are marked. -/
theorem Safe.withBystanders {s : State} (h : Safe s) {m : Memory} (hm : m.wf = true) {os : List OwnedJob}
    (ho : os.map OwnedJob.job = s.owned.map OwnedJob.job) (ins : List Input) (w : Word) (b : Byte) (n : Nat) :
    Safe { s with mem := m, owned := os, inputs := ins, readData := w, memData := b, freeIx := n } where
  memWf := hm
  flags := h.flags
  record := h.record
  underway := jobUnderway_iff.2 (by simpa only [ho] using jobUnderway_iff.1 h.underway)

theorem Safe.withInputs {s : State} (h : Safe s) (ins : List Input) : Safe { s with inputs := ins } :=
  h.withBystanders h.memWf rfl ins s.readData s.memData s.freeIx

/-- The state after a reset meets the invariant, whatever went before. -/
theorem resetBlock_safe {s : State} (hm : s.mem.wf = true) : Safe (resetBlock s) where
  memWf := abandonJob_wf hm
  flags := by simp [FlagsExclusive, resetBlock]
  record := by simp [ErrorRecordOk, resetBlock]
  underway := jobUnderway_of_idle rfl

theorem ackStatus_safe {s : State} (h : Safe s) (v : Word) : Safe (ackStatus v s) := by
  obtain ⟨hmem, ⟨hexcl, hbusy⟩, ⟨hzero, herr, hnone⟩, hjob⟩ := h
  refine ⟨hmem, ⟨?_, ?_⟩, ⟨hzero, ?_, ?_⟩, hjob⟩ <;>
    simp only [ackStatus_done, ackStatus_err, ackStatus_busy, ackStatus_errCode, Bool.and_eq_true]
  · exact fun ⟨hd, he⟩ => hexcl ⟨hd.1, he.1⟩
  · exact fun hb => by simp [hbusy hb]
  · exact fun he => herr he.1
  · exact fun hbd => hnone (hbd.imp_right And.left)

theorem hostRegWrite_safe {r : Reg} {v : Word} {s : State} (h : Safe s) : Safe (hostRegWrite r v s) := by
  cases r with
  | desc d =>
    rw [hostRegWrite]
    split
    · exact h
    · rename_i hb
      exact ⟨h.memWf, h.flags, h.record, jobUnderway_of_idle (by simpa using hb)⟩
  | status => exact ackStatus_safe h v
  | irqEn => exact ⟨h.memWf, h.flags, h.record, h.underway⟩
  | sreset =>
    rw [hostRegWrite]
    split
    · exact resetBlock_safe h.memWf
    · exact h
  | _ => exact h

/-- A register read ends ownership only where DONE is 1, and then no job runs. -/
theorem hostRegRead_safe {r : Reg} {s : State} (h : Safe s) : Safe (hostRegRead r s) := by
  refine ⟨h.memWf, h.flags, h.record, fun hb => ?_⟩
  have hdone : s.done = false := (h.flags.2 hb).1
  have howned : (hostRegRead r s).owned = s.owned := by simp [hostRegRead, hdone]
  rw [howned]
  exact h.underway hb

theorem takeInput_settled_safe {x : Input} {s t : State} (h : Safe s) (hx : takeInput x s = .settled t) :
    Safe t := by
  obtain ⟨_, _, v, r, -, -, -, rfl⟩ | ⟨_, _, r, -, -, rfl⟩ | ⟨a, v, -, rfl⟩ | ⟨a, -, rfl⟩ | ⟨-, -, rfl⟩ | ⟨-, rfl⟩ :=
    takeInput_settled hx
  · exact hostRegWrite_safe h
  · exact hostRegRead_safe h
  · obtain ⟨m, n, os, hframe, hjobs, hwf⟩ := hostMemWrite_frame a v s
    rw [hframe]
    exact h.withBystanders (hwf h.memWf) hjobs s.inputs s.readData s.memData n
  · obtain ⟨b, n, hframe⟩ := hostMemRead_frame a s
    rw [hframe]
    exact h.withBystanders h.memWf rfl s.inputs s.readData b n
  · exact h
  · exact resetBlock_safe h.memWf

theorem nextTurn_settled_safe {s t : State} (h : Safe s) (ht : nextTurn s = .settled t) : Safe t := by
  obtain ⟨-, -, rfl⟩ | ⟨x, rest, -, hx⟩ := nextTurn_settled ht
  · exact h
  · exact takeInput_settled_safe (h.withInputs rest) hx

theorem nextTurn_job_safe {s u : State} (h : Safe s) (hu : nextTurn s = .job u) : Safe u := by
  obtain ⟨-, rfl, -⟩ | ⟨rest, -, rfl, -⟩ | ⟨_, _, _, rest, -, -, -, -, rfl⟩ := nextTurn_job hu
  · exact h
  · exact h.withInputs rest
  · exact h.withInputs rest

/-- A refused START of an idle block leaves ERR alone set, with a full record. -/
theorem refused_safe {r : Refused} {s : State} (hm : s.mem.wf = true) (hb : s.busy = false) (hr : r.Named) :
    Safe (raiseRefusal r (startClear s)) where
  memWf := hm
  flags := by simp [FlagsExclusive, hb]
  record := by simpa [ErrorRecordOk, hb, hr.1] using hr.errInfo_ne_zero
  underway := jobUnderway_of_idle hb

/-- An accepted START runs band 0 of the job in the registers, which is now the newest owned one. -/
theorem accepted_safe {i : Instr} {s : State} {job : Job} (hm : s.mem.wf = true)
    (hd : decode s.desc.ctrl = .ok i) (hr : resolve i s.cfg s.desc = .ok job) :
    Safe (acceptJob job (startClear s)) where
  memWf := hm
  flags := by simp [FlagsExclusive]
  record := by simp [ErrorRecordOk]
  underway := fun _ => ⟨job, currentJob_eq_ok hd hr, nbands_pos_of_resolve hr, false, s.owned, rfl⟩

theorem launch_safe {i : Instr} {s : State} (hm : s.mem.wf = true) (hb : s.busy = false)
    (hd : decode s.desc.ctrl = .ok i) : Safe (launch i s) := by
  obtain ⟨r, hr, hl⟩ | ⟨job, hr, hl⟩ := launch_cases i s <;> rw [hl]
  · exact refused_safe hm hb (resolve_named hr)
  · exact accepted_safe hm hd hr

theorem launchIllegal_safe {s : State} (hm : s.mem.wf = true) (hb : s.busy = false) : Safe (launchIllegal s) :=
  refused_safe hm hb ⟨by decide, .ctrl, rfl⟩

/-- A band's writes to memory keep the invariant of the running job. -/
theorem writeBand_safe {s : State} (h : Safe s) (sts : List Store) (es : List Elem) : Safe (writeBand sts es s) where
  memWf := writeBand_wf h.memWf
  flags := by simpa [FlagsExclusive] using h.flags
  record := by simpa [ErrorRecordOk] using h.record
  underway := by simpa [JobUnderway] using h.underway

/-- The end of a band: the last one leaves DONE alone set, any other leaves ROWPOS below NBANDS. -/
theorem finishBand_safe {s : State} {job : Job} (h : Safe s) (hb : s.busy = true)
    (hjob : currentJob s.cfg s.desc = .ok job) : Safe (finishBand job s) := by
  obtain ⟨hdone, herr⟩ := h.flags.2 hb
  have hcode : s.errCode = .none := h.record.2.2 (.inl hb)
  have hinfo : s.errInfo = 0 := h.record.1.1 hcode
  refine ⟨by simpa using h.memWf, ?_, by simp [ErrorRecordOk, hcode, hinfo, herr], fun hbusy => ?_⟩
  · rw [FlagsExclusive, finishBand_busy, finishBand_done, finishBand_err]
    split <;> simp [hdone, herr]
  · rw [finishBand_busy] at hbusy
    have hnotLast : s.rowPos.toNat + 1 ≠ job.nbands := fun hlast => by simp [hlast] at hbusy
    obtain ⟨job', hjob', hlt, tainted, rest, howned⟩ := h.underway hb
    obtain rfl : job' = job := Except.ok.inj (hjob'.symm.trans hjob)
    refine ⟨job', by simpa using hjob, ?_, tainted, rest, by simpa using howned⟩
    have hadd : (s.rowPos + 1).toNat ≤ s.rowPos.toNat + 1 := by bv_omega
    rw [finishBand_rowPos]
    omega

theorem exec_next_safe {i : Instr} {s t : State} (h : Safe s) (hd : decode s.desc.ctrl = .ok i)
    (he : exec i s = .next t) : Safe t := by
  obtain ⟨hb, rfl⟩ | ⟨hb, job, hr, -, rfl⟩ := exec_next he
  · exact launch_safe h.memWf hb hd
  · refine finishBand_safe (writeBand_safe h _ _) (by simpa using hb) ?_
    simpa using currentJob_eq_ok hd hr

/-- Settles O45: by what a step can do, each settled turn, launch and band keeping the invariant. -/
theorem everyStepKeepsSafe : Obligations.EveryStepKeepsSafe := by
  intro s t h hst
  obtain hs | ⟨u, i, hu, hd, he⟩ | ⟨u, _, hu, -, hb, rfl⟩ := step_next hst
  · exact nextTurn_settled_safe h hs
  · exact exec_next_safe (nextTurn_job_safe h hu) hd he
  · exact launchIllegal_safe (nextTurn_job_safe h hu).memWf hb

/-- Settles O46: the reset state is what a reset leaves of itself. -/
theorem resetLeavesAllRegistersZero : Obligations.ResetLeavesAllRegistersZero :=
  ⟨resetBlock_safe (s := State.reset) rfl, Desc.get_zero, rfl, rfl, rfl, rfl, rfl, rfl⟩

end Sys2Proof.Machine
end

section
/-! The elements of an accepted job and the planes they lie in (20 R62 to R68, 60 R295 to R305).

A plane is a grid of *slots*, elements of the plane's alignment side by side in each row. The elements of a job are slots
of its planes, and its destination elements are, in another order, exactly the slots of its destination planes
(`destElems_perm`). So what START checks of the planes, which are few, says that elements are aligned, lie in memory,
share no byte, and stay out of the sources. -/

namespace Sys2Proof

/-! ### Layouts and element sizes (20 R64, 43 R220) -/

theorem Depth.es_cases (n : Depth) : n.es = 1 ∨ n.es = 2 := by
  cases n <;> decide

theorem Surf.channels_eq (f : Surf) : f.channels = Machine.layoutOrder f := by
  cases f <;> rfl

theorem Surf.count_eq (f : Surf) : f.count = (Machine.layoutOrder f).length := by
  rw [Surf.count, f.channels_eq]

theorem Surf.channels_nodup (f : Surf) : f.channels.Nodup := by
  cases f <;> decide

theorem Depth.es_eq (n : Depth) : n.es = Machine.sampleBytes n := by
  cases n <;> rfl

end Sys2Proof

namespace Sys2Proof.Machine

/-! ### Slots of a plane -/

/-- Slot `k` of row `y`. -/
def Plane.slot (p : Plane) (y k : Nat) : Elem := ⟨p.ptr + y * p.stride + k * p.align, p.align⟩

/-- How many whole slots a row has. -/
def Plane.rowLen (p : Plane) : Nat := p.rowBytes / p.align

/-- The slots of one row. -/
def Plane.row (p : Plane) (y : Nat) : List Elem := (List.range p.rowLen).map (p.slot y)

/-- The slots of all rows. -/
def Plane.elems (p : Plane) : List Elem := (List.range p.rows).flatMap p.row

theorem Plane.mem_row {p : Plane} {y : Nat} {e : Elem} : e ∈ p.row y ↔ ∃ k < p.rowLen, p.slot y k = e := by
  simp [Plane.row]

theorem Plane.mem_elems {p : Plane} {e : Elem} : e ∈ p.elems ↔ ∃ y < p.rows, e ∈ p.row y := by
  simp [Plane.elems]

/-- Element `e` ends before `f` begins. -/
def Elem.before (e f : Elem) : Prop := e.addr + e.size ≤ f.addr

/-- A slot ends inside its row's bytes. -/
theorem Plane.slot_end {p : Plane} {y k : Nat} (hk : k < p.rowLen) :
    (p.slot y k).addr + (p.slot y k).size ≤ p.ptr + y * p.stride + p.rowBytes := by
  have hle : (k + 1) * p.align ≤ p.rowBytes :=
    (Nat.mul_le_mul_right p.align hk).trans (Nat.div_mul_le_self p.rowBytes p.align)
  rw [Nat.add_one_mul] at hle
  simp only [Plane.slot]
  omega

/-- The slots of a row lie one after the other. -/
theorem Plane.row_before (p : Plane) (y : Nat) : (p.row y).Pairwise Elem.before := by
  refine List.pairwise_map.2 (List.pairwise_lt_range.imp fun {j k} hjk => ?_)
  have hle : (j + 1) * p.align ≤ k * p.align := Nat.mul_le_mul_right p.align hjk
  rw [Nat.add_one_mul] at hle
  simp only [Elem.before, Plane.slot]
  omega

/-- Where the stride holds a row, the slots of all rows lie one after the other. -/
theorem Plane.elems_before {p : Plane} (hstride : p.rowBytes ≤ p.stride) : p.elems.Pairwise Elem.before := by
  refine List.pairwise_flatMap.2 ⟨fun y _ => p.row_before y, List.pairwise_lt_range.imp fun {y z} hyz e he f hf => ?_⟩
  obtain ⟨j, hj, rfl⟩ := Plane.mem_row.1 he
  obtain ⟨k, -, rfl⟩ := Plane.mem_row.1 hf
  have hend := Plane.slot_end (y := y) hj
  have hrows : (y + 1) * p.stride ≤ z * p.stride := Nat.mul_le_mul_right p.stride hyz
  rw [Nat.add_one_mul] at hrows
  have haddr : p.ptr + z * p.stride ≤ (p.slot z k).addr := Nat.le_add_right _ _
  unfold Elem.before
  omega

/-- A slot lies in the plane's footprint. -/
theorem Plane.footprint_of_mem_elems {p : Plane} {e : Elem} (he : e ∈ p.elems) :
    p.ptr ≤ e.addr ∧ e.addr + e.size ≤ p.hi := by
  obtain ⟨y, hy, he⟩ := Plane.mem_elems.1 he
  obtain ⟨k, hk, rfl⟩ := Plane.mem_row.1 he
  have hend := Plane.slot_end (y := y) hk
  have hrow : y * p.stride ≤ p.stride * (p.rows - 1) := by
    rw [Nat.mul_comm]
    exact Nat.mul_le_mul_left p.stride (by omega)
  have haddr : p.ptr ≤ (p.slot y k).addr := by simp only [Plane.slot]; omega
  unfold Plane.hi
  omega

theorem Plane.contains_of_covers {p : Plane} {e : Elem} {a : Nat} (he : e ∈ p.elems) (ha : e.covers a) :
    p.contains a = true := by
  obtain ⟨hlo, hhi⟩ := Plane.footprint_of_mem_elems he
  obtain ⟨hea, hae⟩ := ha
  simp only [Plane.contains, Bool.and_eq_true, decide_eq_true_eq]
  omega

/-- A slot has the size of the plane's alignment, and is aligned where the plane is. -/
theorem Plane.aligned_of_mem_elems {p : Plane} {e : Elem} (hptr : p.ptr % p.align = 0)
    (hstride : p.stride % p.align = 0) (he : e ∈ p.elems) : e.size = p.align ∧ e.addr % e.size = 0 := by
  obtain ⟨y, -, he⟩ := Plane.mem_elems.1 he
  obtain ⟨k, -, rfl⟩ := Plane.mem_row.1 he
  refine ⟨rfl, Nat.mod_eq_zero_of_dvd ?_⟩
  exact ((Nat.dvd_of_mod_eq_zero hptr).add ((Nat.dvd_of_mod_eq_zero hstride).mul_left y)).add (Nat.dvd_mul_left _ k)

/-! ### Surfaces as planes -/

theorem Job.es_cases (job : Job) : job.es = 1 ∨ job.es = 2 := Depth.es_cases job.depth

theorem Job.esA_cases (job : Job) : job.esA = 1 ∨ job.esA = 2 := by
  cases hk : job.kind <;> simp [Job.esA, hk, job.es_cases]

theorem Job.esB_cases (job : Job) : job.esB = 1 ∨ job.esB = 2 := by
  cases hk : job.kind <;> simp [Job.esB, hk, job.es_cases]

theorem Job.es_pos (job : Job) : 0 < job.es := by
  obtain h | h := job.es_cases <;> omega

theorem Job.esA_pos (job : Job) : 0 < job.esA := by
  obtain h | h := job.esA_cases <;> omega

theorem Job.esB_pos (job : Job) : 0 < job.esB := by
  obtain h | h := job.esB_cases <;> omega

/-- How many elements a pixel has. -/
def SurfRef.perPixel (p : SurfRef) : Nat := if p.surf = .rgba1010102 then 1 else p.surf.count

theorem SurfRef.bpp_eq (p : SurfRef) : p.surf.bpp p.es = p.perPixel * p.align := by
  unfold Surf.bpp SurfRef.perPixel SurfRef.align
  split <;> simp

/-- Whether the plane is the one of the surface, for `w` by `h` pixels. -/
structure Plane.IsOf (q : Plane) (p : SurfRef) (w h : Nat) : Prop where
  ptr : q.ptr = p.ptr
  stride : q.stride = p.stride
  align : q.align = p.align
  rowBytes : q.rowBytes = w * p.surf.bpp p.es
  rows : q.rows = h

theorem Job.planeA_isOf (job : Job) (dest : Bool) : (job.planeA dest).IsOf job.refA job.w job.h :=
  ⟨rfl, rfl, rfl, rfl, rfl⟩

theorem Job.planeB_isOf (job : Job) : job.planeB.IsOf job.refB job.w job.h := ⟨rfl, rfl, rfl, rfl, rfl⟩

/-- Cutting a range into stretches of `n`. -/
theorem range_mul_eq_flatMap (w n : Nat) :
    List.range (w * n) = (List.range w).flatMap fun x => (List.range n).map (x * n + ·) := by
  induction w with
  | zero => simp
  | succ w ih => rw [Nat.add_one_mul, List.range_add, ih, List.range_succ, List.flatMap_append, List.flatMap_singleton]

section
variable {q : Plane} {p : SurfRef} {w h : Nat}

/-- The elements of pixel `(x, y)` are consecutive slots of row `y`. -/
theorem Plane.IsOf.pixelElems (hq : q.IsOf p w h) (x y : Nat) :
    p.pixelElems x y = (List.range p.perPixel).map fun i => q.slot y (x * p.perPixel + i) := by
  unfold SurfRef.pixelElems SurfRef.perPixel
  split
  · rename_i hs
    simp [SurfRef.word, Plane.slot, hq.ptr, hq.stride, hq.align, SurfRef.align, hs, Nat.mul_comm]
  · rename_i hs
    refine List.map_congr_left fun i _ => ?_
    simp [SurfRef.elem, Plane.slot, hq.ptr, hq.stride, hq.align, SurfRef.align, hs]

theorem SurfRef.align_pos (hes : 0 < p.es) : 0 < p.align := by
  unfold SurfRef.align
  split <;> omega

/-- The elements of a row of the surface are the slots of the plane's row. -/
theorem Plane.IsOf.rowElems (hq : q.IsOf p w h) (hes : 0 < p.es) (y : Nat) : p.rowElems w y = q.row y := by
  have hlen : q.rowLen = w * p.perPixel := by
    rw [Plane.rowLen, hq.rowBytes, hq.align, p.bpp_eq, ← Nat.mul_assoc, Nat.mul_div_cancel _ (SurfRef.align_pos hes)]
  rw [Plane.row, hlen, range_mul_eq_flatMap, List.map_flatMap]
  refine List.flatMap_congr fun x _ => ?_
  rw [hq.pixelElems, List.map_map]
  rfl

theorem Plane.IsOf.mem_elems (hq : q.IsOf p w h) (hes : 0 < p.es) {x y : Nat} (hx : x < w) (hy : y < h) {e : Elem}
    (he : e ∈ p.pixelElems x y) : e ∈ q.elems := by
  refine Plane.mem_elems.2 ⟨y, hq.rows ▸ hy, ?_⟩
  rw [← hq.rowElems hes]
  exact List.mem_flatMap.2 ⟨x, List.mem_range.2 hx, he⟩

end

/-! ### Luma and chroma as planes -/

theorem Job.planeY_rowLen (job : Job) (dest : Bool) : (job.planeY dest).rowLen = job.w :=
  Nat.mul_div_cancel _ job.es_pos

/-- The luma samples of row `y`. -/
theorem Job.planeY_row (job : Job) (dest : Bool) (y : Nat) :
    (job.planeY dest).row y = (List.range job.w).map fun x => job.lumaElem x y := by
  rw [Plane.row, job.planeY_rowLen]
  rfl

theorem Job.lumaElem_mem (job : Job) (dest : Bool) {x y : Nat} (hx : x < job.w) (hy : y < job.h) :
    job.lumaElem x y ∈ (job.planeY dest).elems := by
  refine Plane.mem_elems.2 ⟨y, hy, ?_⟩
  rw [job.planeY_row]
  exact List.mem_map_of_mem (List.mem_range.2 hx)

/-- The chroma samples of chroma row `cy`, as a band writes them (44 R252). -/
def Job.chromaRow (job : Job) (cy : Nat) : List Elem :=
  if job.hasChroma then (List.range job.cw).flatMap fun cx => [job.uElem cx cy, job.vElem cx cy] else []

section
variable {job : Job} (dest : Bool)

/-- Three planes: the samples of a chroma row are the rows of the U and V planes (41 R166, R167). -/
theorem Job.planar_rows (harr : job.arr = .p3) (cy : Nat) :
    (job.planeU dest).row cy = (List.range job.cw).map (fun cx => job.uElem cx cy) ∧
    (job.planeV dest).row cy = (List.range job.cw).map (fun cx => job.vElem cx cy) := by
  have hu : (job.planeU dest).rowLen = job.cw := by simp [Plane.rowLen, Job.planeU, harr, job.es_pos]
  have hv : (job.planeV dest).rowLen = job.cw := by simp [Plane.rowLen, Job.planeV, job.es_pos]
  rw [Plane.row, Plane.row, hu, hv]
  constructor <;> simp [Plane.slot, Job.planeU, Job.planeV, Job.uElem, Job.vElem, harr]

/-- Semi-planar: a row of the one chroma plane is a row of pairs. -/
theorem Job.semiPlanar_row (harr : job.arr ≠ .p3) (cy : Nat) :
    (job.planeU dest).row cy = (List.range job.cw).flatMap fun cx =>
      [(job.planeU dest).slot cy (cx * 2), (job.planeU dest).slot cy (cx * 2 + 1)] := by
  have hlen : (job.planeU dest).rowLen = job.cw * 2 := by
    simp only [Plane.rowLen, Job.planeU, if_neg harr]
    rw [Nat.mul_div_cancel _ job.es_pos, Nat.mul_comm]
  rw [Plane.row, hlen, range_mul_eq_flatMap, List.map_flatMap]
  rfl

/-- Semi-planar: U and V are the two slots of a pair, in the order the arrangement gives (41 R167). -/
theorem Job.semiPlanar_pair (harr : job.arr ≠ .p3) (cx cy : Nat) :
    [job.uElem cx cy, job.vElem cx cy].Perm
      [(job.planeU dest).slot cy (cx * 2), (job.planeU dest).slot cy (cx * 2 + 1)] := by
  cases h : job.arr with
  | p3 => exact absurd h harr
  | spuv => simp [h, Job.uElem, Job.vElem, Plane.slot, Job.planeU, Nat.mul_comm 2]
  | spvu => simpa [h, Job.uElem, Job.vElem, Plane.slot, Job.planeU, Nat.mul_comm 2] using List.Perm.swap _ _ []

/-- The samples of a chroma row are the slots of the chroma planes' rows. -/
theorem Job.chromaRow_perm (cy : Nat) :
    (job.chromaRow cy).Perm ((job.chromaPlanes dest).flatMap fun p => p.row cy) := by
  unfold Job.chromaRow Job.chromaPlanes
  split
  · split
    · rename_i harr
      obtain ⟨hu, hv⟩ := Job.planar_rows dest harr cy
      have hturn := List.flatMap_append_perm (List.range job.cw) (fun cx => [job.uElem cx cy])
        (fun cx => [job.vElem cx cy])
      simpa [hu, hv, ← List.map_eq_flatMap] using hturn.symm
    · rename_i harr
      rw [List.flatMap_singleton, Job.semiPlanar_row dest harr]
      exact List.Perm.flatMap_left _ fun cx _ => Job.semiPlanar_pair dest harr cx cy
  · exact List.Perm.nil

theorem Job.chromaPlanes_rows {p : Plane} (hp : p ∈ job.chromaPlanes dest) : p.rows = job.ch := by
  unfold Job.chromaPlanes at hp
  split at hp
  · split at hp <;> simp only [List.mem_cons, List.not_mem_nil, or_false] at hp
    · obtain rfl | rfl := hp <;> rfl
    · rw [hp]; rfl
  · cases hp

/-- Row by row through all planes, or plane by plane: the same slots. -/
theorem rows_perm_elems {n : Nat} {ps : List Plane} (hps : ∀ p ∈ ps, p.rows = n) :
    ((List.range n).flatMap fun y => ps.flatMap fun p => p.row y).Perm (ps.flatMap Plane.elems) := by
  induction ps with
  | nil => simp
  | cons p ps ih =>
    rw [List.forall_mem_cons] at hps
    have helems : p.elems = (List.range n).flatMap p.row := by rw [Plane.elems, hps.1]
    simp only [List.flatMap_cons]
    exact (List.flatMap_append_perm _ _ _).symm.trans (helems ▸ (ih hps.2).append_left _)

/-- The samples of all chroma rows are the slots of the chroma planes. -/
theorem Job.chromaRows_perm :
    ((List.range job.ch).flatMap job.chromaRow).Perm ((job.chromaPlanes dest).flatMap Plane.elems) :=
  (List.Perm.flatMap_left _ fun cy _ => Job.chromaRow_perm dest cy).trans
    (rows_perm_elems fun _ => Job.chromaPlanes_rows dest)

/-- A chroma sample is a slot of a chroma plane. -/
theorem Job.chroma_mem (hs : job.subs ≠ .s400) {cx cy : Nat} (hx : cx < job.cw) (hy : cy < job.ch) {e : Elem}
    (he : e = job.uElem cx cy ∨ e = job.vElem cx cy) : ∃ p ∈ job.chromaPlanes dest, e ∈ p.elems := by
  have hchroma : job.hasChroma = true := by simpa [Job.hasChroma] using hs
  have hrow : e ∈ job.chromaRow cy := by
    rw [Job.chromaRow, if_pos hchroma]
    exact List.mem_flatMap.2 ⟨cx, List.mem_range.2 hx, by simpa using he⟩
  obtain ⟨p, hp, hep⟩ := List.mem_flatMap.1 ((Job.chromaRow_perm dest cy).mem_iff.1 hrow)
  exact ⟨p, hp, Plane.mem_elems.2 ⟨cy, by rwa [Job.chromaPlanes_rows dest hp], hep⟩⟩

end

/-! ### The planes of a job -/

/-- What the decoded job of a descriptor is: made of the descriptor's fields, FMT having the shape of the format. -/
theorem decodeJob_eq_ok {i : Instr} {c : Config} {d : Desc} {job : Job} (h : decodeJob i c d = .ok job) :
    ∃ f n, decodeFmt d.fmt = .ok f ∧ fmtShapeOk i.kind f = true ∧ effectiveDepth i f = some n ∧
      i.ctrlUnsupported = false ∧ fmtUnsupported i.kind f.surfA (f.surfB.getD f.surfA) n f.subs f.arr = false ∧
      job = makeJob i c d f n := by
  unfold decodeJob at h
  cases hf : decodeFmt d.fmt with
  | error e => simp [hf] at h
  | ok f =>
    cases hn : effectiveDepth i f with
    | none => simp only [hf, hn] at h; split at h <;> cases h
    | some n =>
      simp only [hf, hn] at h
      split at h
      · cases h
      · split at h
        · cases h
        · split at h
          · cases h
          · rename_i hshape hctrl hfmt
            exact ⟨f, n, rfl, by simpa using hshape, hn, by simpa using hctrl, by simpa using hfmt,
              (Except.ok.inj h).symm⟩

/-- The factors of an accepted job are not 0, and format S has no subsampling (30 R91, 41 R161). -/
theorem sy_of_resolve {i : Instr} {c : Config} {d : Desc} {job : Job} (h : resolve i c d = .ok job) :
    0 < job.sy ∧ (job.kind.isC = false → job.sy = 1) := by
  obtain ⟨f, n, -, hshape, -, -, -, rfl⟩ := decodeJob_eq_ok (resolve_eq_ok.1 h).1
  refine ⟨(subsFactors_pos c f.subs).2, fun hS => ?_⟩
  have hsubs : f.subs = .s444 := by
    simp only [fmtShapeOk, show i.kind.isC = false from hS, Bool.false_eq_true, if_false, Bool.and_eq_true,
      beq_iff_eq] at hshape
    exact hshape.1.2
  simp [makeJob, hsubs, subsFactors]

section
variable {job : Job}

/-- The planes of format C: surface A on one side, luma and chroma on the other. -/
theorem Job.planes_formatC (hC : job.kind.isC = true) :
    job.planes = job.planeA (job.kind == .dec) :: job.planeY (job.kind == .enc) ::
      job.chromaPlanes (job.kind == .enc) := by
  unfold Job.planes
  generalize job.kind = k at hC ⊢
  cases k with
  | enc => rfl
  | dec => rfl
  | _ => cases hC

theorem Job.planes_formatS (hS : job.kind.isC = false) : job.planes = [job.planeA false, job.planeB] := by
  unfold Job.planes
  generalize job.kind = k at hS ⊢
  cases k with
  | enc => cases hS
  | dec => cases hS
  | _ => rfl

theorem Job.chromaPlanes_cases (dest : Bool) :
    job.chromaPlanes dest = [] ∨ job.chromaPlanes dest = [job.planeU dest] ∨
    job.chromaPlanes dest = [job.planeU dest, job.planeV dest] := by
  unfold Job.chromaPlanes
  split
  · split
    · exact .inr (.inr rfl)
    · exact .inr (.inl rfl)
  · exact .inl rfl

/-- No two planes of a job have the same pointer register (60 R295). -/
theorem Job.planes_regs (job : Job) : (job.planes.map Plane.ptrReg).Nodup := by
  cases hC : job.kind.isC with
  | true =>
    rw [Job.planes_formatC hC]
    obtain h | h | h := Job.chromaPlanes_cases (job := job) (job.kind == .enc) <;> rw [h] <;>
      simp [Job.planeA, Job.planeY, Job.planeU, Job.planeV]
  | false =>
    rw [Job.planes_formatS hC]
    simp [Job.planeA, Job.planeB]

theorem Job.chromaPlanes_align {dest : Bool} {p : Plane} (hp : p ∈ job.chromaPlanes dest) : p.align = job.es := by
  obtain h | h | h := Job.chromaPlanes_cases (job := job) dest <;> rw [h] at hp
  · cases hp
  · obtain rfl := List.mem_singleton.1 hp
    rfl
  · simp only [List.mem_cons, List.not_mem_nil, or_false] at hp
    obtain rfl | rfl := hp <;> rfl

theorem SurfRef.align_cases {p : SurfRef} (h : p.es = 1 ∨ p.es = 2) : p.align = 1 ∨ p.align = 2 ∨ p.align = 4 := by
  unfold SurfRef.align
  split
  · exact .inr (.inr rfl)
  · exact h.imp_right .inl

/-- The alignment of a plane is the size of an element (60 R295). -/
theorem Job.planes_align {p : Plane} (hp : p ∈ job.planes) : p.align = 1 ∨ p.align = 2 ∨ p.align = 4 := by
  have hA : ∀ dest, (job.planeA dest).align = 1 ∨ (job.planeA dest).align = 2 ∨ (job.planeA dest).align = 4 :=
    fun _ => SurfRef.align_cases (p := job.refA) job.esA_cases
  cases hC : job.kind.isC with
  | true =>
    rw [Job.planes_formatC hC, List.mem_cons, List.mem_cons] at hp
    obtain rfl | rfl | hp := hp
    · exact hA _
    · exact job.es_cases.imp_right .inl
    · rw [Job.chromaPlanes_align hp]
      exact job.es_cases.imp_right .inl
  | false =>
    rw [Job.planes_formatS hC, List.mem_cons, List.mem_singleton] at hp
    obtain rfl | rfl := hp
    · exact hA _
    · exact SurfRef.align_cases (p := job.refB) job.esB_cases

end

/-! ### The planes of an accepted job (60 R293) -/

section
variable {c : Config} {job : Job} {p q : Plane}

/-- A slot of a plane that passes the checks lies in memory and is aligned (20 R62, R65). -/
theorem elemOk_of_mem_elems (h : checkJob c job = none) (hp : p ∈ job.planes) {e : Elem} (he : e ∈ p.elems) :
    ElemOk e := by
  obtain ⟨-, hptr, hstride, -, hhi⟩ := planeFacts h hp
  obtain ⟨hsize, halign⟩ := Plane.aligned_of_mem_elems hptr hstride he
  refine ⟨?_, (Plane.footprint_of_mem_elems he).2.trans hhi, halign⟩
  rw [hsize]
  exact Job.planes_align hp

/-- E_ALIAS passed: a destination footprint meets no other plane's (60 R305). -/
theorem footprints_disjoint (h : checkJob c job = none) (hp : p ∈ job.planes) (hdest : p.isDest = true)
    (hq : q ∈ job.planes) (hreg : q.ptrReg ≠ p.ptrReg) : p.hi ≤ q.ptr ∨ q.hi ≤ p.ptr := by
  obtain ⟨-, -, -, -, hoverlap⟩ := (checkJob_eq_none h).2 p hp
  by_contra hmeet
  have hany : (job.planes.any fun q => q.ptrReg != p.ptrReg && p.meets q) = true := by
    refine List.any_eq_true.2 ⟨q, hq, ?_⟩
    simp only [Plane.meets, Bool.and_eq_true, bne_iff_ne, ne_eq, decide_eq_true_eq]
    exact ⟨hreg, by omega, by omega⟩
  simp [overlapCheck, hdest, hany] at hoverlap

theorem apart_of_disjoint (h : p.hi ≤ q.ptr ∨ q.hi ≤ p.ptr) {e f : Elem} (he : e ∈ p.elems) (hf : f ∈ q.elems) :
    e.apart f := by
  obtain ⟨hplo, hphi⟩ := Plane.footprint_of_mem_elems he
  obtain ⟨hqlo, hqhi⟩ := Plane.footprint_of_mem_elems hf
  unfold Elem.apart
  omega

/-- The destination planes of a job. -/
def Job.destPlanes (job : Job) : List Plane := job.planes.filter Plane.isDest

theorem Job.mem_destPlanes : p ∈ job.destPlanes ↔ p ∈ job.planes ∧ p.isDest = true := List.mem_filter

/-- The slots of the destination planes share no byte. -/
theorem destSlots_apart (h : checkJob c job = none) :
    (job.destPlanes.flatMap Plane.elems).Pairwise Elem.apart := by
  refine List.pairwise_flatMap.2 ⟨fun p hp => ?_, ?_⟩
  · obtain ⟨-, -, -, hstride, -⟩ := planeFacts h (Job.mem_destPlanes.1 hp).1
    exact (Plane.elems_before hstride).imp .inl
  · refine ((List.pairwise_map.1 job.planes_regs).filter _).imp_of_mem fun {p q} hp hq hreg e he f hf => ?_
    obtain ⟨hp, hdest⟩ := Job.mem_destPlanes.1 hp
    exact apart_of_disjoint (footprints_disjoint h hp hdest (Job.mem_destPlanes.1 hq).1 hreg.symm) he hf

theorem bytes_nodup {es : List Elem} (h : es.Pairwise Elem.apart) : (es.flatMap Elem.bytes).Nodup := by
  refine List.nodup_flatMap.2 ⟨fun e _ => List.nodup_range', h.imp fun {e f} hef a hae haf => ?_⟩
  simp only [Elem.bytes, List.mem_range'_1] at hae haf
  unfold Elem.apart at hef
  omega

end

/-! ### The destination elements band by band -/

section
variable {job : Job}

/-- The bands part the rows, in order (41 R163). -/
theorem Job.bandRows_flatMap (job : Job) (n : Nat) :
    (List.range n).flatMap job.bandRows = List.range (min (n * job.sy) job.h) := by
  induction n with
  | zero => simp
  | succ n ih =>
    have hmin : min ((n + 1) * job.sy) job.h = min (n * job.sy) job.h + job.bandHeight n := by
      rw [Nat.add_one_mul, Job.bandHeight]
      omega
    have hrows : job.bandRows n = (List.range (job.bandHeight n)).map (min (n * job.sy) job.h + ·) := by
      rw [Job.bandRows, List.range'_eq_map_range]
      obtain hin | hout := Nat.le_total (n * job.sy) job.h
      · rw [min_eq_left hin]
      · have hnone : job.bandHeight n = 0 := by rw [Job.bandHeight]; omega
        rw [hnone]
        rfl
    rw [List.range_succ, List.flatMap_append, List.flatMap_singleton, ih, hmin, List.range_add, hrows]

theorem Job.allBandRows (hsy : 0 < job.sy) : (List.range job.nbands).flatMap job.bandRows = List.range job.h := by
  have hle : job.h ≤ job.nbands * job.sy := by
    have hdiv := Nat.div_add_mod (job.h + job.sy - 1) job.sy
    have hmod := Nat.mod_lt (job.h + job.sy - 1) hsy
    rw [Job.nbands, ceilDiv, Nat.mul_comm]
    omega
  rw [job.bandRows_flatMap, min_eq_right hle]

/-- The elements of a band of ENC (44 R252). -/
theorem Job.bandElems_enc (hk : job.kind = .enc) (j : Nat) :
    job.bandElems j = ((job.bandRows j).flatMap (job.planeY true).row) ++ job.chromaRow j := by
  simp only [Job.bandElems, hk, Job.chromaRow, funext (job.planeY_row true)]

/-- The elements of a band of DEC (44 R253). -/
theorem Job.bandElems_dec (hk : job.kind = .dec) (j : Nat) :
    job.bandElems j = (job.bandRows j).flatMap (job.planeA true).row := by
  simp only [Job.bandElems, hk, (job.planeA_isOf true).rowElems job.esA_pos]

/-- The elements of a band of format S (44 R254). -/
theorem Job.bandElems_formatS (hS : job.kind.isC = false) (j : Nat) : job.bandElems j = job.planeB.row j := by
  rw [← job.planeB_isOf.rowElems job.esB_pos]
  unfold Job.bandElems
  generalize job.kind = k at hS ⊢
  cases k with
  | enc => cases hS
  | dec => cases hS
  | _ => rfl

theorem Job.filter_chromaPlanes (job : Job) (dest : Bool) :
    (job.chromaPlanes dest).filter Plane.isDest = if dest then job.chromaPlanes dest else [] := by
  obtain h | h | h := Job.chromaPlanes_cases (job := job) dest <;> cases dest <;> rw [h] <;> rfl

theorem Job.destPlanes_enc (hk : job.kind = .enc) :
    job.destPlanes = job.planeY true :: job.chromaPlanes true := by
  rw [Job.destPlanes, Job.planes_formatC (by rw [hk]; rfl), hk]
  exact congrArg (job.planeY true :: ·) (job.filter_chromaPlanes true)

theorem Job.destPlanes_dec (hk : job.kind = .dec) : job.destPlanes = [job.planeA true] := by
  rw [Job.destPlanes, Job.planes_formatC (by rw [hk]; rfl), hk]
  exact congrArg (job.planeA true :: ·) (job.filter_chromaPlanes false)

theorem Job.destPlanes_formatS (hS : job.kind.isC = false) : job.destPlanes = [job.planeB] := by
  rw [Job.destPlanes, Job.planes_formatS hS]
  rfl

/-- A plane with the job's rows, its slots taken band by band. -/
theorem Job.bandRows_elems (hsy : 0 < job.sy) {p : Plane} (hp : p.rows = job.h) :
    (List.range job.nbands).flatMap (fun j => (job.bandRows j).flatMap p.row) = p.elems := by
  rw [← List.flatMap_assoc, Job.allBandRows hsy, Plane.elems, hp]

/-- The destination elements of a job are the slots of its destination planes. -/
theorem Job.destElems_perm (hsy : 0 < job.sy) (hS : job.kind.isC = false → job.sy = 1) :
    job.destElems.Perm (job.destPlanes.flatMap Plane.elems) := by
  cases hC : job.kind.isC with
  | true =>
    cases hk : job.kind with
    | enc =>
      rw [Job.destPlanes_enc hk, List.flatMap_cons, ← Job.bandRows_elems hsy (p := job.planeY true) rfl,
        Job.destElems, funext (Job.bandElems_enc hk)]
      exact (List.flatMap_append_perm _ _ _).symm.trans ((Job.chromaRows_perm true).append_left _)
    | dec =>
      rw [Job.destPlanes_dec hk, List.flatMap_singleton, Job.destElems, funext (Job.bandElems_dec hk),
        Job.bandRows_elems hsy rfl]
    | _ => simp [hk, JobKind.isC] at hC
  | false =>
    have hnbands : job.nbands = job.h := by simp [Job.nbands, ceilDiv, hS hC]
    rw [Job.destPlanes_formatS hC, List.flatMap_singleton, Job.destElems, funext (Job.bandElems_formatS hC), hnbands]
    rfl

end

section
variable {i : Instr} {c : Config} {d : Desc} {job : Job}

theorem destElems_perm_of_resolve (h : resolve i c d = .ok job) :
    job.destElems.Perm (job.destPlanes.flatMap Plane.elems) :=
  Job.destElems_perm (sy_of_resolve h).1 (sy_of_resolve h).2

/-- The destination elements of an accepted job share no byte. -/
theorem destElems_apart (h : resolve i c d = .ok job) : job.destElems.Pairwise Elem.apart :=
  ((destElems_perm_of_resolve h).pairwise_iff fun {_ _} hef => Or.symm hef).2 (destSlots_apart (resolve_eq_ok.1 h).2)

/-- A destination element of an accepted job is a slot of a destination plane. -/
theorem destPlane_of_mem_destElems (h : resolve i c d = .ok job) {e : Elem} (he : e ∈ job.destElems) :
    ∃ p ∈ job.planes, p.isDest = true ∧ e ∈ p.elems := by
  obtain ⟨p, hp, hep⟩ := List.mem_flatMap.1 ((destElems_perm_of_resolve h).mem_iff.1 he)
  obtain ⟨hp, hdest⟩ := Job.mem_destPlanes.1 hp
  exact ⟨p, hp, hdest, hep⟩

end

/-! ### The statements -/

/-- What a band writes, element by element (44 R252 to R254). -/
theorem Job.mem_bandElems (job : Job) (j : Nat) (e : Elem) : e ∈ job.bandElems j ↔ BandWrites job j e := by
  unfold Job.bandElems BandWrites
  cases job.kind with
  | enc =>
    simp only [List.mem_append, List.mem_flatMap, List.mem_map, List.mem_range]
    refine or_congr ⟨?_, ?_⟩ ?_
    · rintro ⟨y, hy, x, hx, rfl⟩
      exact ⟨x, hx, y, hy, rfl⟩
    · rintro ⟨x, hx, y, hy, rfl⟩
      exact ⟨y, hy, x, hx, rfl⟩
    · by_cases hs : job.subs = .s400 <;> simp [Job.hasChroma, hs]
  | dec =>
    simp only [List.mem_flatMap, SurfRef.rowElems, List.mem_range]
    constructor
    · rintro ⟨y, hy, x, hx, he⟩
      exact ⟨x, hx, y, hy, he⟩
    · rintro ⟨x, hx, y, hy, he⟩
      exact ⟨y, hy, x, hx, he⟩
  | _ => simp [SurfRef.rowElems]

/-- Settles O51: destination elements are pairwise apart, and membership in bands is read off. -/
theorem destinationBytesAreWrittenOnce : Obligations.DestinationBytesAreWrittenOnce := by
  refine ⟨fun i c d job h => bytes_nodup (destElems_apart h), fun job e => ?_, Job.mem_bandElems⟩
  simp [Job.destElems]

/-- Settles O52: the element is a slot of a destination plane, whose footprint meets no other plane's. -/
theorem destinationsAvoidSources : Obligations.DestinationsAvoidSources := by
  intro i c d job h e he a ha
  obtain ⟨p, hp, hdest, hep⟩ := destPlane_of_mem_destElems h he
  have hin : p.contains a = true := Plane.contains_of_covers hep ha
  refine ⟨List.any_eq_true.2 ⟨p, hp, by rw [hdest, hin]; rfl⟩, fun q hq hsource => ?_⟩
  have hreg : q.ptrReg ≠ p.ptrReg := fun heq => by
    rw [List.inj_on_of_nodup_map job.planes_regs hq hp heq, hdest] at hsource
    cases hsource
  have hdisj := footprints_disjoint (resolve_eq_ok.1 h).2 hp hdest hq hreg
  simp only [Plane.contains, Bool.and_eq_true, decide_eq_true_eq, Bool.and_eq_false_iff, decide_eq_false_iff_not] at hin ⊢
  omega

/-! ### Where elements are, and how they are read (20 R62, 43 R220 to R224) -/

theorem Job.surfaceBytes_eq (job : Job) : surfaceBytes job = (job.esA, job.esB) := by
  have hes : sampleBytes job.depth = job.es := (Depth.es_eq job.depth).symm
  unfold surfaceBytes Job.esA Job.esB
  cases job.kind <;> simp only [hes]

/-- Little-endian (20 R62). -/
theorem Memory.sample_bytes (m : Memory) (a : Nat) :
    m.sample ⟨a, 1⟩ = (m.getByte a).toNat ∧
    m.sample ⟨a, 2⟩ = (m.getByte a).toNat + 256 * (m.getByte (a + 1)).toNat ∧
    m.sample ⟨a, 4⟩ = (m.getByte a).toNat + 256 * (m.getByte (a + 1)).toNat + 65536 * (m.getByte (a + 2)).toNat
      + 16777216 * (m.getByte (a + 3)).toNat := by
  simp only [Memory.sample, Memory.read, Nat.add_assoc, Nat.reduceAdd]
  omega

section
variable {p : SurfRef}

/-- `unpack` of an unpacked surface reads each channel at its place (43 R222). -/
theorem SurfRef.get_unpack (hp : p.surf ≠ .rgba1010102) (m : Memory) (x y : Nat) (c : Chan) :
    (p.unpack m x y).get c = p.readChan m x y c := by
  rw [SurfRef.unpack, if_neg hp]
  cases c <;> rfl

/-- Channel `k` of the layout's name is element `k` of the pixel (43 R220). -/
theorem SurfRef.readChan_of_channel {k : Nat} {c : Chan} (hk : p.surf.channels[k]? = some c) (m : Memory) (x y : Nat) :
    p.readChan m x y c = m.sample (p.elem x y k) := by
  obtain ⟨hlt, hget⟩ := List.getElem?_eq_some_iff.1 hk
  have hmem : p.surf.channels.contains c = true := List.contains_iff_mem.2 (hget ▸ List.getElem_mem hlt)
  have hidx : p.surf.channels.idxOf c = k := hget ▸ p.surf.channels_nodup.idxOf_getElem k hlt
  rw [SurfRef.readChan, if_pos hmem, hidx]

theorem SurfRef.elem_eq (p : SurfRef) (x y k : Nat) :
    p.elem x y k = ⟨p.ptr + y * p.stride + (x * (layoutOrder p.surf).length + k) * p.es, p.es⟩ := by
  rw [SurfRef.elem, p.surf.count_eq]

theorem SurfRef.mem_pixelElems (hp : p.surf ≠ .rgba1010102) (x y : Nat) (e : Elem) :
    e ∈ p.pixelElems x y ↔ ∃ k < (layoutOrder p.surf).length, e = p.elem x y k := by
  rw [SurfRef.pixelElems, if_neg hp, p.surf.count_eq]
  simp [eq_comm]

end

/-- Every element that an accepted job accesses lies in memory and is aligned (20 R62, R65). -/
theorem accessedElems_ok {i : Instr} {c : Config} {d : Desc} {job : Job} (h : resolve i c d = .ok job) :
    (∀ x < job.w, ∀ y < job.h, ∀ e ∈ job.refA.pixelElems x y, ElemOk e) ∧
    (job.kind.isC = false → ∀ x < job.w, ∀ y < job.h, ∀ e ∈ job.refB.pixelElems x y, ElemOk e) ∧
    (job.kind.isC = true → ∀ x < job.w, ∀ y < job.h, ElemOk (job.lumaElem x y)) ∧
    (job.kind.isC = true → job.subs ≠ .s400 → ∀ cx < job.cw, ∀ cy < job.ch,
      ElemOk (job.uElem cx cy) ∧ ElemOk (job.vElem cx cy)) := by
  have hok {p : Plane} (hp : p ∈ job.planes) {e : Elem} (he : e ∈ p.elems) : ElemOk e :=
    elemOk_of_mem_elems (resolve_eq_ok.1 h).2 hp he
  have hA : ∃ dest, job.planeA dest ∈ job.planes := by
    cases hC : job.kind.isC with
    | true => exact ⟨_, by rw [Job.planes_formatC hC]; exact List.mem_cons_self⟩
    | false => exact ⟨_, by rw [Job.planes_formatS hC]; exact List.mem_cons_self⟩
  refine ⟨fun x hx y hy e he => ?_, fun hS x hx y hy e he => ?_, fun hC x hx y hy => ?_, fun hC hs cx hx cy hy => ?_⟩
  · obtain ⟨dest, hdest⟩ := hA
    exact hok hdest ((job.planeA_isOf dest).mem_elems job.esA_pos hx hy he)
  · have hB : job.planeB ∈ job.planes := by rw [Job.planes_formatS hS]; simp
    exact hok hB (job.planeB_isOf.mem_elems job.esB_pos hx hy he)
  · have hY : job.planeY (job.kind == .enc) ∈ job.planes := by rw [Job.planes_formatC hC]; simp
    exact hok hY (job.lumaElem_mem _ hx hy)
  · have hchroma {e : Elem} (he : e = job.uElem cx cy ∨ e = job.vElem cx cy) : ElemOk e := by
      obtain ⟨p, hp, hep⟩ := Job.chroma_mem (job.kind == .enc) hs hx hy he
      refine hok ?_ hep
      rw [Job.planes_formatC hC]
      exact List.mem_cons_of_mem _ (List.mem_cons_of_mem _ hp)
    exact ⟨hchroma (.inl rfl), hchroma (.inr rfl)⟩

/-- Settles O50: accessed elements are slots of checked planes; the forms are read off the definitions. -/
theorem acceptedJobsStayInMemoryAligned : Obligations.AcceptedJobsStayInMemoryAligned := by
  refine ⟨fun i c d job h => accessedElems_ok h, Memory.sample_bytes, fun m p x y hp => ?_, fun m p x y hp => ?_,
    fun px => ⟨rfl, rfl, rfl, rfl, rfl⟩, fun job => ?_⟩
  · simp only [← SurfRef.elem_eq]
    refine ⟨p.surf.channels_eq, p.surf.count_eq, fun _ => trivial, SurfRef.mem_pixelElems hp x y, fun k c hk => ?_⟩
    rw [SurfRef.get_unpack hp, SurfRef.readChan_of_channel (p.surf.channels_eq ▸ hk)]
  · rw [SurfRef.pixelElems, SurfRef.unpack, if_pos hp, if_pos hp]
    exact ⟨rfl, rfl, rfl, rfl, rfl⟩
  · rw [job.surfaceBytes_eq, ← Depth.es_eq]
    refine ⟨rfl, rfl, fun _ _ => rfl, fun cx cy => ⟨fun harr => ?_, fun harr => ?_, fun harr => ?_⟩⟩ <;>
      simp only [Job.uElem, Job.vElem, harr] <;> exact ⟨rfl, rfl⟩

end Sys2Proof.Machine
end

section
/-! The ownership protocol (20 R72, 93 U6): what a host access to memory and a STATUS read come to as one step, what a
write to an owned byte spoils, and the bands of a job so spoiled. -/

namespace Sys2Proof.Machine

section
variable {s : State} {rest : List Input} {a : Word} {v : Byte}

theorem step_memWrite (hi : s.inputs = .memWrite a v :: rest) :
    step s = .next (hostMemWrite a v { s with inputs := rest }) := by
  simp [step, nextTurn, hi, takeInput]

theorem step_memRead (hi : s.inputs = .memRead a :: rest) :
    step s = .next (hostMemRead a { s with inputs := rest }) := by
  simp [step, nextTurn, hi, takeInput]

theorem step_statusRead (hi : s.inputs = .regRead 0x68 4 :: rest) :
    step s = .next (hostRegRead .status { s with inputs := rest }) := step_regRead (r := .status) hi

end

/-! ### The end of ownership, and the host's reads -/

/-- Outside the destination footprints of owned jobs a host read returns the byte. -/
theorem hostMemRead_of_unowned {s : State} {a : Word} (h : ∀ o ∈ s.owned, o.job.ownsDest a.toNat = false) :
    hostMemRead a s = { s with memData := s.mem.getByte a.toNat } := by
  have hnone : (s.owned.any fun o => o.job.ownsDest a.toNat) = false := by simpa using h
  rw [hostMemRead, hnone]
  rfl

/-- Settles O59: the four parts are the STATUS read with DONE 1 and 0, the read of an unowned byte, and the frame of any
host read. -/
theorem ownershipEndsWhenDoneIsRead : Obligations.OwnershipEndsWhenDoneIsRead := by
  refine ⟨fun s rest hdone hi => ?_, fun s rest hdone hi => ?_, fun s rest a hfree hi => ?_, fun s rest a hi => ?_⟩
  · exact ⟨_, step_statusRead hi, if_pos ⟨rfl, hdone⟩, registerReads_readReg s .status, rfl⟩
  · refine ⟨_, step_statusRead hi, registerReads_readReg s .status, ?_⟩
    simp [hostRegRead, hdone]
  · rw [step_memRead hi, hostMemRead_of_unowned (s := { s with inputs := rest }) hfree]
  · obtain ⟨b, n, hframe⟩ := hostMemRead_frame a { s with inputs := rest }
    exact ⟨_, step_memRead hi, by rw [hframe]⟩

/-! ### What a host write to memory spoils -/

/-- An owned job after the host's write to byte `a`: marked if the byte is one of its own. -/
def OwnedJob.afterWrite (a : Nat) (o : OwnedJob) : OwnedJob := if o.job.owns a then { o with tainted := true } else o

/-- The write marks exactly the jobs that own the byte. -/
theorem breakOwnership_marks (a : Nat) (os : List OwnedJob) (s : State) :
    (breakOwnership a os s).1 = os.map (OwnedJob.afterWrite a) := by
  induction os generalizing s with
  | nil => rfl
  | cons o rest ih =>
    rw [breakOwnership, List.map_cons, OwnedJob.afterWrite]
    split <;> simp only [ih]

/-- A write to a byte no job owns spoils nothing. -/
theorem breakOwnership_of_unowned {a : Nat} {os : List OwnedJob} (h : ∀ o ∈ os, o.job.owns a = false) (s : State) :
    breakOwnership a os s = (os, s) := by
  induction os generalizing s with
  | nil => rfl
  | cons o rest ih =>
    rw [List.forall_mem_cons] at h
    simp only [breakOwnership, h.1, Bool.false_eq_true, if_false, ih h.2]

/-- A byte outside the destination elements of the jobs that own `a` is not spoiled. -/
theorem breakOwnership_other {a x : Nat} {os : List OwnedJob} {s : State} (hwf : s.mem.wf = true)
    (h : ∀ o ∈ os, o.job.owns a = true → ∀ e ∈ o.job.destElems, ¬e.covers x) :
    (breakOwnership a os s).2.mem.getByte x = s.mem.getByte x := by
  induction os generalizing s with
  | nil => rfl
  | cons o rest ih =>
    rw [List.forall_mem_cons] at h
    rw [breakOwnership]
    split
    · rename_i howns
      calc (breakOwnership a rest (havocJob o.job s)).2.mem.getByte x
          = (havocJob o.job s).mem.getByte x := ih (havocElems_wf hwf) h.2
        _ = s.mem.getByte x := havocElems_other hwf (h.1 howns)
    · exact ih hwf h.2

section
variable {s : State} {a : Word} {v : Byte}

/-- A host write to a byte no job owns is a plain store. -/
theorem hostMemWrite_of_unowned (h : ∀ o ∈ s.owned, o.job.owns a.toNat = false) :
    hostMemWrite a v s = { s with mem := s.mem.setByte a.toNat v } := by
  simp only [hostMemWrite, breakOwnership_of_unowned h]

theorem hostMemWrite_owned : (hostMemWrite a v s).owned = s.owned.map (OwnedJob.afterWrite a.toNat) :=
  breakOwnership_marks _ _ _

/-- Apart from the byte written, a host write changes destination elements of the jobs that own it alone. -/
theorem hostMemWrite_other {x : Nat} (hwf : s.mem.wf = true) (hx : x ≠ a.toNat)
    (h : ∀ o ∈ s.owned, o.job.owns a.toNat = true → ∀ e ∈ o.job.destElems, ¬e.covers x) :
    (hostMemWrite a v s).mem.getByte x = s.mem.getByte x :=
  calc (hostMemWrite a v s).mem.getByte x
      = (s.mem.setByte a.toNat v).getByte x := breakOwnership_other (wf_setByte hwf _ _) h
    _ = s.mem.getByte x := by rw [getByte_setByte hwf, if_neg fun hh => hx hh.1]

/-- A host address has 32 bits, so the byte is there (20 R60). -/
theorem getByte_setByte_word (hwf : s.mem.wf = true) : (s.mem.setByte a.toNat v).getByte a.toNat = v := by
  have hlt : a.toNat < addrLimit := a.isLt
  rw [getByte_setByte hwf, if_pos ⟨rfl, hlt⟩]

end

/-! ### The bands of a marked job -/

/-- A band of a marked job puts free values into its own elements. -/
theorem writeBand_of_tainted {s : State} (h : s.runningTainted = true) (sts : List Store) (es : List Elem) :
    writeBand sts es s = havocElems es s := by
  rw [writeBand, h]
  rfl

/-- A band of a legal job whose ROWPOS is below NBANDS answers a next state, for every instruction. -/
theorem exec_eq_band {i : Instr} {s : State} {job : Job} (hb : s.busy = true)
    (hr : resolve i s.cfg s.desc = .ok job) (hj : s.rowPos.toNat < job.nbands) :
    exec i s = .next (finishBand job
      (writeBand (bandOf i job s.mem s.rowPos.toNat) (job.bandElems s.rowPos.toNat) s)) := by
  rw [exec_eq_runJob, runJob, hb, if_pos rfl, bandStep_eq hr hj]

/-- Settles O58: the write by what `breakOwnership` marks and spoils, the bands to come by what `finishBand` leaves. -/
theorem hostWriteToOwnedByteSpoilsOnlyItsJobs : Obligations.HostWriteToOwnedByteSpoilsOnlyItsJobs := by
  refine ⟨fun s rest a v hwf hi => ?_, fun i s job hb hr hj htaint hwf => ?_⟩
  · let s' : State := { s with inputs := rest }
    refine ⟨_, step_memWrite hi, fun hfree => ?_, fun x hx hout => hostMemWrite_other (s := s') hwf hx hout,
      hostMemWrite_owned, ?_⟩
    · rw [hostMemWrite_of_unowned (s := s') hfree]
      refine ⟨rfl, getByte_setByte_word (s := s) hwf, fun x hx => ?_⟩
      rw [getByte_setByte hwf, if_neg fun hh => hx hh.1]
    · obtain ⟨m, n, os, hframe, -, -⟩ := hostMemWrite_frame a v s'
      rw [hframe]
      exact ⟨rfl, rfl, rfl, rfl, rfl, rfl, rfl, rfl, rfl, rfl, rfl, rfl⟩
  · refine ⟨_, exec_eq_band hb hr hj, ?_⟩
    rw [writeBand_of_tainted htaint]
    have hmem : SameOutside (job.bandElems s.rowPos.toNat) s.mem
        (havocElems (job.bandElems s.rowPos.toNat) s).mem := fun _ hx => havocElems_other hwf hx
    simp +contextual [finishBand_busy, finishBand_done, hb, hmem]

end Sys2Proof.Machine
end

section
/-! The opcode word CTRL and the format word FMT as numbers (30 R92, R100). A word with given fields is built by
`ctrlWord` or `formatWord`; the `_eq_iff` lemma of each says that a word is that one exactly when it holds those fields
at their bits and its reserved bits are 0. The encoders are these words, and the decoders read off these fields, so both
round trips are one equivalence each. -/

namespace Sys2Proof

/-! ### Fields and masks (00 R10) -/

theorem field_lt (w : Word) (lo len : Nat) : field w lo len < 2 ^ len := Nat.mod_lt _ (Nat.two_pow_pos len)

/-- The mask of the `len` bits from bit `lo` upward. -/
def fieldMask (lo len : Nat) : Word := BitVec.ofNat 32 ((2 ^ len - 1) * 2 ^ lo)

/-- A word under the mask of a field is the field, moved to its place. -/
theorem toNat_and_fieldMask (w : Word) {lo len : Nat} (h : lo + len ≤ 32) :
    (w &&& fieldMask lo len).toNat = field w lo len * 2 ^ lo := by
  have hfits : (2 ^ len - 1) * 2 ^ lo < 2 ^ 32 := by
    calc (2 ^ len - 1) * 2 ^ lo < 2 ^ len * 2 ^ lo :=
          Nat.mul_lt_mul_of_pos_right (Nat.sub_one_lt (Nat.two_pow_pos len).ne') (Nat.two_pow_pos lo)
      _ = 2 ^ (lo + len) := by rw [← Nat.pow_add, Nat.add_comm]
      _ ≤ 2 ^ 32 := Nat.pow_le_pow_right (by decide) h
  rw [BitVec.toNat_and, fieldMask, BitVec.toNat_ofNat, Nat.mod_eq_of_lt hfits, field]
  refine Nat.eq_of_testBit_eq fun k => ?_
  simp only [Nat.testBit_and, Nat.testBit_mul_two_pow, Nat.testBit_two_pow_sub_one, Nat.testBit_mod_two_pow,
    Nat.testBit_div_two_pow]
  by_cases hk : lo ≤ k
  · simp [hk, Bool.and_comm]
  · simp [hk]

theorem and_fieldMask_eq_zero (w : Word) {lo len : Nat} (h : lo + len ≤ 32) :
    w &&& fieldMask lo len = 0 ↔ field w lo len = 0 := by
  rw [BitVec.toNat_eq, toNat_and_fieldMask w h]
  simp

theorem and_or_eq_zero {w a b : Word} : w &&& (a ||| b) = 0 ↔ w &&& a = 0 ∧ w &&& b = 0 := by
  rw [BitVec.and_or_distrib_left]
  exact BitVec.or_eq_zero_iff

/-! ### The fields of CTRL (30 R92) -/

/-- 30 R98: the reserved fields of CTRL are the bits of one mask. -/
theorem ctrlReservedClear_iff (w : Word) : ctrlReservedClear w = true ↔ w &&& 0xFFF0E8C0 = 0 := by
  have hmask : (0xFFF0E8C0 : Word) = ((fieldMask 6 2 ||| fieldMask 11 1) ||| fieldMask 13 3) ||| fieldMask 20 12 := by
    decide
  rw [hmask, and_or_eq_zero, and_or_eq_zero, and_or_eq_zero, and_fieldMask_eq_zero w (by decide),
    and_fieldMask_eq_zero w (by decide), and_fieldMask_eq_zero w (by decide), and_fieldMask_eq_zero w (by decide)]
  simp only [ctrlReservedClear, Bool.and_eq_true, beq_iff_eq]

/-- The CTRL word with the given fields. -/
def ctrlWord (op fixd model rot range tf : Nat) : Word :=
  BitVec.ofNat 32 (op + 16 * fixd + 256 * model + 512 * rot + 4096 * range + 65536 * tf)

/-- A CTRL word is the sum of its fields, each at its place. -/
theorem ctrlWord_eq_iff {op fixd model rot range tf : Nat} {w : Word} (hop : op < 16) (hfixd : fixd < 4)
    (hmodel : model < 2) (hrot : rot < 4) (hrange : range < 2) (htf : tf < 16) :
    ctrlWord op fixd model rot range tf = w ↔
      field w 0 4 = op ∧ field w 4 2 = fixd ∧ field w 8 1 = model ∧ field w 9 2 = rot ∧ field w 12 1 = range ∧
      field w 16 4 = tf ∧ ctrlReservedClear w = true := by
  have hw := w.isLt
  rw [BitVec.toNat_eq, ctrlWord, BitVec.toNat_ofNat]
  simp only [ctrlReservedClear, field, Bool.and_eq_true, beq_iff_eq]
  omega

theorem ColorModel.code_lt (m : ColorModel) : m.code < 2 := by cases m <;> decide

theorem YuvRange.code_lt (r : YuvRange) : r.code < 2 := by cases r <;> decide

theorem decodeModel_eq_iff {n : Nat} (h : n < 2) (m : ColorModel) : decodeModel n = m ↔ n = m.code := by
  have : n = 0 ∨ n = 1 := by omega
  obtain rfl | rfl := this <;> cases m <;> decide

theorem decodeRange_eq_iff {n : Nat} (h : n < 2) (r : YuvRange) : decodeRange n = r ↔ n = r.code := by
  have : n = 0 ∨ n = 1 := by omega
  obtain rfl | rfl := this <;> cases r <;> decide

theorem ofNat_eq_iff {k n : Nat} (h : n < 2 ^ k) (b : BitVec k) : BitVec.ofNat k n = b ↔ n = b.toNat := by
  rw [BitVec.toNat_eq, BitVec.toNat_ofNat, Nat.mod_eq_of_lt h]

/-- 30 R97: ROT may differ from 0 exactly in the lifting family. -/
theorem rotOk_iff (model : ColorModel) (rot : BitVec 2) :
    rotOk model rot = true ↔ ¬(rot.toNat ≠ 0 ∧ model.code = 0) := by
  have hrot : rot.toNat = 0 ↔ rot = 0 := by
    rw [BitVec.toNat_eq]
    rfl
  cases model <;> simp [rotOk, ColorModel.code, hrot]

theorem encodeC_eq_ctrlWord (op : Nat) (model : ColorModel) (rot : BitVec 2) (range : YuvRange) (tf : BitVec 4) :
    encodeC op model rot range tf = ctrlWord op 0 model.code rot.toNat range.code tf.toNat := rfl

theorem encodeC_eq_iff {op : Nat} {model : ColorModel} {rot : BitVec 2} {range : YuvRange} {tf : BitVec 4} {w : Word}
    (hop : op < 16) :
    encodeC op model rot range tf = w ↔
      field w 0 4 = op ∧ field w 4 2 = 0 ∧ field w 8 1 = model.code ∧ field w 9 2 = rot.toNat ∧
      field w 12 1 = range.code ∧ field w 16 4 = tf.toNat ∧ ctrlReservedClear w = true := by
  rw [encodeC_eq_ctrlWord]
  exact ctrlWord_eq_iff hop (by decide) model.code_lt rot.isLt range.code_lt tf.isLt

/-! ### What the decoder accepts (30 R91 to R99) -/

section
variable {w : Word} {op : Nat} {i j : Instr}

/-- A format C word is accepted as the job whose encoding it is. -/
theorem decodeC_eq_ok_iff {mk : ColorModel → BitVec 2 → YuvRange → BitVec 4 → Instr} (hop : field w 0 4 = op)
    (hres : ctrlReservedClear w = true) :
    decodeC mk w = .ok i ↔ ∃ model rot range tf,
      rotOk model rot = true ∧ encodeC op model rot range tf = w ∧ mk model rot range tf = i := by
  have hop16 : op < 16 := hop ▸ field_lt w 0 4
  simp only [encodeC_eq_iff hop16, rotOk_iff]
  constructor
  · intro h
    unfold decodeC at h
    split at h
    · cases h
    · split at h
      · cases h
      · rename_i hfixd hrot
        have hmodel := (decodeModel_eq_iff (field_lt w 8 1) _).1 rfl
        have hrange := (decodeRange_eq_iff (field_lt w 12 1) _).1 rfl
        have hrotbits := (ofNat_eq_iff (field_lt w 9 2) _).1 rfl
        have htf := (ofNat_eq_iff (field_lt w 16 4) _).1 rfl
        refine ⟨_, _, _, _, ?_, ⟨hop, not_not.1 hfixd, hmodel, hrotbits, hrange, htf, hres⟩, Except.ok.inj h⟩
        rwa [← hmodel, ← hrotbits]
  · rintro ⟨model, rot, range, tf, hrot, ⟨-, hfixd, hmodel, hrotbits, hrange, htf, -⟩, rfl⟩
    unfold decodeC
    rw [if_neg (not_not.2 hfixd), if_neg (by rwa [hmodel, hrotbits]), (decodeModel_eq_iff (field_lt w 8 1) _).2 hmodel,
      (decodeRange_eq_iff (field_lt w 12 1) _).2 hrange, (ofNat_eq_iff (field_lt w 9 2) _).2 hrotbits,
      (ofNat_eq_iff (field_lt w 16 4) _).2 htf]

/-- A format S word is accepted when OP and FIXD are all it holds. -/
theorem eq_of_decodeS (hop : field w 0 4 = op) (hres : ctrlReservedClear w = true) (h : decodeS j w = .ok i) :
    j = i ∧ ctrlWord op (field w 4 2) 0 0 0 0 = w := by
  unfold decodeS at h
  split at h
  · cases h
  · split at h
    · cases h
    · rename_i hC hrot
      simp only [not_or, not_not] at hC hrot
      obtain ⟨hmodel, hrange, htf⟩ := hC
      refine ⟨Except.ok.inj h, ?_⟩
      rw [ctrlWord_eq_iff (hop ▸ field_lt w 0 4) (field_lt w 4 2) (by decide) (by decide) (by decide) (by decide)]
      exact ⟨hop, rfl, hmodel, hrot, hrange, htf, hres⟩

theorem eq_of_decodePlainS (hop : field w 0 4 = op) (hres : ctrlReservedClear w = true)
    (h : decodePlainS j w = .ok i) : j = i ∧ ctrlWord op 0 0 0 0 0 = w := by
  unfold decodePlainS at h
  split at h
  · cases h
  · rename_i hfixd
    rw [not_not] at hfixd
    have := eq_of_decodeS hop hres h
    rwa [hfixd] at this

/-- The fixed-depth variants in the order of FIXD (30 R94). -/
theorem encode_byFixd {n : Nat} (h : n < 4) :
    encode (byFixd .widenD .widen10 .widen12 .widen16 n) = ctrlWord 3 n 0 0 0 0 ∧
    encode (byFixd .narrowD .narrow10 .narrow12 .narrow16 n) = ctrlWord 4 n 0 0 0 0 := by
  interval_cases n <;> decide

theorem wellFormed_of_formatS (h : Machine.formatC i = false) : i.wellFormed = true := by
  cases i with
  | enc => cases h
  | dec => cases h
  | _ => rfl

theorem formatC_byFixd (n : Nat) :
    Machine.formatC (byFixd .widenD .widen10 .widen12 .widen16 n) = false ∧
    Machine.formatC (byFixd .narrowD .narrow10 .narrow12 .narrow16 n) = false := by
  unfold byFixd
  split <;> decide

/-- 30 R107: an accepted CTRL word is the encoding of its job. -/
theorem encode_of_decode (h : decode w = .ok i) : i.wellFormed = true ∧ encode i = w := by
  unfold decode at h
  split at h
  · cases h
  · rename_i hclear
    have hres : ctrlReservedClear w = true := by simpa using hclear
    split at h
    case h_1 hop =>
      obtain ⟨model, rot, range, tf, hrot, hw, rfl⟩ := (decodeC_eq_ok_iff hop hres).1 h
      exact ⟨hrot, hw⟩
    case h_2 hop =>
      obtain ⟨model, rot, range, tf, hrot, hw, rfl⟩ := (decodeC_eq_ok_iff hop hres).1 h
      exact ⟨hrot, hw⟩
    case h_3 hop =>
      obtain ⟨rfl, hw⟩ := eq_of_decodeS hop hres h
      exact ⟨wellFormed_of_formatS (formatC_byFixd _).1, (encode_byFixd (field_lt w 4 2)).1.trans hw⟩
    case h_4 hop =>
      obtain ⟨rfl, hw⟩ := eq_of_decodeS hop hres h
      exact ⟨wellFormed_of_formatS (formatC_byFixd _).2, (encode_byFixd (field_lt w 4 2)).2.trans hw⟩
    case h_5 hop =>
      obtain ⟨rfl, hw⟩ := eq_of_decodePlainS hop hres h
      exact ⟨rfl, hw⟩
    case h_6 hop =>
      obtain ⟨rfl, hw⟩ := eq_of_decodePlainS hop hres h
      exact ⟨rfl, hw⟩
    case h_7 hop =>
      obtain ⟨rfl, hw⟩ := eq_of_decodePlainS hop hres h
      exact ⟨rfl, hw⟩
    case h_8 => cases h

end

/-- The words of the format S jobs are literals, so their decoding is a closed computation (30 R107). -/
theorem decode_formatS_words :
    decode 0x03 = .ok .widenD ∧ decode 0x13 = .ok .widen10 ∧ decode 0x23 = .ok .widen12 ∧ decode 0x33 = .ok .widen16 ∧
    decode 0x04 = .ok .narrowD ∧ decode 0x14 = .ok .narrow10 ∧ decode 0x24 = .ok .narrow12 ∧
    decode 0x34 = .ok .narrow16 ∧ decode 0x05 = .ok .perm ∧ decode 0x06 = .ok .u2h ∧ decode 0x07 = .ok .h2u := by
  decide +kernel

theorem decode_encodeC {model : ColorModel} {rot : BitVec 2} (hrot : rotOk model rot = true) (range : YuvRange)
    (tf : BitVec 4) :
    decode (encodeC 1 model rot range tf) = .ok (.enc model rot range tf) ∧
    decode (encodeC 2 model rot range tf) = .ok (.dec model rot range tf) := by
  constructor
  · obtain ⟨hop, -, -, -, -, -, hres⟩ := (encodeC_eq_iff (op := 1) (by decide)).1 rfl
    rw [decode, hres, hop]
    exact (decodeC_eq_ok_iff hop hres).2 ⟨_, _, _, _, hrot, rfl, rfl⟩
  · obtain ⟨hop, -, -, -, -, -, hres⟩ := (encodeC_eq_iff (op := 2) (by decide)).1 rfl
    rw [decode, hres, hop]
    exact (decodeC_eq_ok_iff hop hres).2 ⟨_, _, _, _, hrot, rfl, rfl⟩

/-- 30 R107: the encoding of a job is accepted as that job. -/
theorem decode_encode {i : Instr} (h : i.wellFormed = true) : decode (encode i) = .ok i := by
  obtain ⟨hwD, hw10, hw12, hw16, hnD, hn10, hn12, hn16, hperm, hu2h, hh2u⟩ := decode_formatS_words
  cases i with
  | enc model rot range tf => exact (decode_encodeC h range tf).1
  | dec model rot range tf => exact (decode_encodeC h range tf).2
  | widenD => exact hwD
  | widen10 => exact hw10
  | widen12 => exact hw12
  | widen16 => exact hw16
  | narrowD => exact hnD
  | narrow10 => exact hn10
  | narrow12 => exact hn12
  | narrow16 => exact hn16
  | perm => exact hperm
  | u2h => exact hu2h
  | h2u => exact hh2u

/-- OP and FIXD of the word of a format C job (30 R92): OP alone. -/
theorem encodeC_and_opcodeMask {op : Nat} (hop : op < 16) (model : ColorModel) (rot : BitVec 2) (range : YuvRange)
    (tf : BitVec 4) : encodeC op model rot range tf &&& 0x0000003F = BitVec.ofNat 32 op := by
  obtain ⟨hop', hfixd, -⟩ := (encodeC_eq_iff (model := model) (rot := rot) (range := range) (tf := tf) hop).1 rfl
  have hmask : (0x0000003F : Word) = fieldMask 0 6 := by decide
  rw [hmask, BitVec.toNat_eq, toNat_and_fieldMask _ (by decide), BitVec.toNat_ofNat]
  unfold field at *
  omega

/-! ### The statements about CTRL -/

/-- Settles O1: ENC and DEC by the fields of their word, the other jobs by their literal words. -/
theorem encodedJobsDecodeBack : Obligations.EncodedJobsDecodeBack := fun _ => decode_encode

/-- The fields of a format C word, with the numbers of 30 R96 and R97. -/
theorem ctrlHolds_of_encodeC {op : Nat} (hop : op < 16) {model : ColorModel} {rot : BitVec 2} {range : YuvRange}
    {tf : BitVec 4} {w : Word} (h : encodeC op model rot range tf = w) : Machine.CtrlHolds w model rot range tf := by
  obtain ⟨-, -, hmodel, hrot, hrange, htf, hres⟩ := (encodeC_eq_iff hop).1 h
  refine ⟨hmodel.trans ?_, hrot, hrange.trans ?_, htf, (ctrlReservedClear_iff w).1 hres⟩
  · cases model <;> rfl
  · cases range <;> rfl

/-- Settles O2: an accepted word is the encoding of its job, and an encoding holds its fields at their bits. -/
theorem decodedCtrlWordsEncodeBack : Obligations.DecodedCtrlWordsEncodeBack := by
  refine ⟨fun w i h => (encode_of_decode h).symm, ?_⟩
  rintro w model rot range tf (h | h)
  · exact ctrlHolds_of_encodeC (op := 1) (by decide) (encode_of_decode h).2
  · exact ctrlHolds_of_encodeC (op := 2) (by decide) (encode_of_decode h).2

/-- Settles O4: an accepted word is the encoding of its job, whose OP and FIXD are read off. -/
theorem opcodeMapHasThirteenJobs : Obligations.OpcodeMapHasThirteenJobs := by
  refine ⟨fun w i h => ?_, decode_encode (i := .enc .linear 0 .tv 0) rfl, decode_encode (i := .dec .linear 0 .tv 0) rfl,
    decode_formatS_words⟩
  obtain ⟨-, rfl⟩ := encode_of_decode h
  cases i with
  | enc model rot range tf => exact encodeC_and_opcodeMask (by decide) model rot range tf
  | dec model rot range tf => exact encodeC_and_opcodeMask (by decide) model rot range tf
  | _ => rfl

end Sys2Proof
end

section
/-! The format word FMT (30 R100 to R104) and the refusals of R98 and R294: what an illegal word of CTRL or FMT does at
a START. -/

namespace Sys2Proof

/-! ### The fields of FMT (30 R100) -/

/-- The reserved fields of FMT are the bits of one mask. -/
theorem fmtReservedClear_iff (w : Word) : fmtReservedClear w = true ↔ w &&& 0xFFC8E000 = 0 := by
  have hmask : (0xFFC8E000 : Word) = (fieldMask 13 3 ||| fieldMask 19 1) ||| fieldMask 22 10 := by decide
  rw [hmask, and_or_eq_zero, and_or_eq_zero, and_fieldMask_eq_zero w (by decide), and_fieldMask_eq_zero w (by decide),
    and_fieldMask_eq_zero w (by decide)]
  simp only [fmtReservedClear, Bool.and_eq_true, beq_iff_eq]

/-- The FMT word with the given fields. -/
def formatWord (a b bits subs arr : Nat) : Word :=
  BitVec.ofNat 32 (a + 16 * b + 256 * bits + 65536 * subs + 1048576 * arr)

/-- An FMT word is the sum of its fields, each at its place. -/
theorem formatWord_eq_iff {a b bits subs arr : Nat} {w : Word} (ha : a < 16) (hb : b < 16) (hbits : bits < 32)
    (hsubs : subs < 8) (harr : arr < 4) :
    formatWord a b bits subs arr = w ↔
      field w 0 4 = a ∧ field w 4 4 = b ∧ field w 8 5 = bits ∧ field w 16 3 = subs ∧ field w 20 2 = arr ∧
      fmtReservedClear w = true := by
  have hw := w.isLt
  rw [BitVec.toNat_eq, formatWord, BitVec.toNat_ofNat]
  simp only [fmtReservedClear, field, Bool.and_eq_true, beq_iff_eq]
  omega

/-! ### The codes of the enumerations (30 R101, R103, R104) -/

theorem decodeSurf_eq_iff {n : Nat} {s : Surf} : decodeSurf n = some s ↔ n = s.code := by
  constructor
  · intro h
    unfold decodeSurf at h
    split at h <;> cases h <;> rfl
  · rintro rfl
    cases s <;> rfl

theorem decodeSubs_eq_iff {n : Nat} {s : Subs} : decodeSubs n = some s ↔ n = s.code := by
  constructor
  · intro h
    unfold decodeSubs at h
    split at h <;> cases h <;> rfl
  · rintro rfl
    cases s <;> rfl

theorem decodeArr_eq_iff {n : Nat} {r : Arr} : decodeArr n = some r ↔ n = r.code := by
  constructor
  · intro h
    unfold decodeArr at h
    split at h <;> cases h <;> rfl
  · rintro rfl
    cases r <;> rfl

theorem Surf.code_bounds (s : Surf) : 0 < s.code ∧ s.code ≤ 8 := by cases s <;> decide

theorem Subs.code_lt (s : Subs) : s.code < 6 := by cases s <;> decide

theorem Arr.code_lt (r : Arr) : r.code < 3 := by cases r <;> decide

theorem Subs.code_eq_zero {s : Subs} : s.code = 0 ↔ s = .s444 := by cases s <;> decide

theorem Arr.code_eq_zero {r : Arr} : r.code = 0 ↔ r = .p3 := by cases r <;> decide

theorem surfBCode_le (b : Option Surf) : surfBCode b ≤ 8 := by
  cases b with
  | none => decide
  | some s => exact s.code_bounds.2

/-- Code 0 is no surface, which no surface has as its code. -/
theorem surfBCode_eq_zero {b : Option Surf} : surfBCode b = 0 ↔ b = none := by
  cases b with
  | none => simp [surfBCode]
  | some s => simpa [surfBCode] using s.code_bounds.1.ne'

theorem decodeSurfB_eq_iff {n : Nat} {b : Option Surf} : decodeSurfB n = .ok b ↔ n = surfBCode b := by
  unfold decodeSurfB
  by_cases hn : n = 0
  · rw [if_pos hn, hn, eq_comm (a := 0), surfBCode_eq_zero, Except.ok.injEq]
    exact eq_comm
  · rw [if_neg hn]
    cases b with
    | none => cases decodeSurf n <;> simp [surfBCode, hn]
    | some s =>
      rw [surfBCode, ← decodeSurf_eq_iff]
      cases decodeSurf n <;> simp

theorem surfNumber_eq (b : Option Surf) : Machine.surfNumber b = surfBCode b := by
  cases b with
  | none => rfl
  | some s => cases s <;> rfl

/-! ### FMT words and formats determine each other -/

/-- FMT is legal for some operation exactly when every field holds the code of a value. -/
theorem decodeFmt_eq_ok_iff {w : Word} {f : Fmt} :
    decodeFmt w = .ok f ↔
      field w 0 4 = f.surfA.code ∧ field w 4 4 = surfBCode f.surfB ∧ field w 8 5 = f.bits.toNat ∧
      field w 16 3 = f.subs.code ∧ field w 20 2 = f.arr.code ∧ fmtReservedClear w = true := by
  simp only [← decodeSurf_eq_iff, ← decodeSurfB_eq_iff, ← decodeSubs_eq_iff, ← decodeArr_eq_iff,
    ← ofNat_eq_iff (field_lt w 8 5)]
  unfold decodeFmt
  cases fmtReservedClear w with
  | false => simp
  | true =>
    cases decodeSurf (field w 0 4) with
    | none => simp
    | some a =>
      cases decodeSurfB (field w 4 4) with
      | error e => simp
      | ok b =>
        cases decodeSubs (field w 16 3) with
        | none => simp
        | some s =>
          cases decodeArr (field w 20 2) with
          | none => simp
          | some r =>
            obtain ⟨a', b', n', s', r'⟩ := f
            simp

theorem encodeFmt_eq_iff {f : Fmt} {w : Word} :
    encodeFmt f = w ↔
      field w 0 4 = f.surfA.code ∧ field w 4 4 = surfBCode f.surfB ∧ field w 8 5 = f.bits.toNat ∧
      field w 16 3 = f.subs.code ∧ field w 20 2 = f.arr.code ∧ fmtReservedClear w = true :=
  formatWord_eq_iff (Nat.lt_of_le_of_lt f.surfA.code_bounds.2 (by decide))
    (Nat.lt_of_le_of_lt (surfBCode_le f.surfB) (by decide)) f.bits.isLt (f.subs.code_lt.trans (by decide))
    (f.arr.code_lt.trans (by decide))

theorem decodeFmt_iff_encodeFmt {w : Word} {f : Fmt} : decodeFmt w = .ok f ↔ encodeFmt f = w :=
  decodeFmt_eq_ok_iff.trans encodeFmt_eq_iff.symm

/-- The word of a format's codes holds the fields with the numbers of 30 R101, R103 and R104. -/
theorem fmtHolds_formatWord (a b : Option Surf) (bits : BitVec 5) (subs : Subs) (arr : Arr) :
    Machine.FmtHolds (formatWord (surfBCode a) (surfBCode b) bits.toNat subs.code arr.code) a b bits.toNat subs arr := by
  obtain ⟨ha, hb, hbits, hsubs, harr, hres⟩ := (formatWord_eq_iff (Nat.lt_of_le_of_lt (surfBCode_le a) (by decide))
    (Nat.lt_of_le_of_lt (surfBCode_le b) (by decide)) bits.isLt (subs.code_lt.trans (by decide))
    (arr.code_lt.trans (by decide))).1 rfl
  refine ⟨ha.trans (surfNumber_eq a).symm, hb.trans (surfNumber_eq b).symm, hbits, hsubs.trans ?_, harr.trans ?_,
    (fmtReservedClear_iff _).1 hres⟩
  · cases subs <;> rfl
  · cases arr <;> rfl

/-- Settles O3: a format word decodes to a format exactly when it is the format's encoding. -/
theorem formatWordsRoundTrip : Obligations.FormatWordsRoundTrip := by
  refine ⟨fun f => decodeFmt_iff_encodeFmt.2 rfl, fun w f h => ?_⟩
  obtain rfl := decodeFmt_iff_encodeFmt.1 h
  exact ⟨rfl, fmtHolds_formatWord (some f.surfA) f.surfB f.bits f.subs f.arr⟩

/-- Settles O5: CTRL words as encodings of their jobs, FMT words as encodings of their formats. -/
theorem specWordsDecode : Obligations.SpecWordsDecode :=
  ⟨decode_encode (i := .enc .linear 0 .pc 0) rfl, decode_encode (i := .enc .lifting 0 .tv 0) rfl,
    decode_encode (i := .dec .linear 0 .tv 0) rfl, decode_encode (i := .narrow10) rfl, decode_encode (i := .widenD) rfl,
    decode_encode (i := .perm) rfl, decodeFmt_iff_encodeFmt.2 rfl, decodeFmt_iff_encodeFmt.2 rfl,
    decodeFmt_iff_encodeFmt.2 rfl⟩

end Sys2Proof

namespace Sys2Proof.Machine

/-! ### Illegal words at a START (30 R98, 60 R294) -/

/-- 30 R98: a word with a reserved bit set names no job. -/
theorem decode_of_reservedBit {w : Word} (h : w &&& 0xFFF0E8C0 ≠ 0) : decode w = .error .reservedBit := by
  have hset : ctrlReservedClear w = false := by
    rwa [ne_eq, ← ctrlReservedClear_iff, Bool.not_eq_true] at h
  rw [decode, if_pos hset]

theorem raiseRefusal_refusedBy (code : ErrCode) (r : Reg) (s : State) :
    RefusedBy code r s (raiseRefusal ⟨code, r⟩ (startClear s)) := rfl

/-- Settles O6: a START of a word that names no job, and a write to an idle CTRL. -/
theorem reservedCtrlBitsRefuseTheStart : Obligations.ReservedCtrlBitsRefuseTheStart := by
  refine ⟨fun s rest hb hi hw => ?_, rfl, fun s rest v hb hi => ?_⟩
  · refine ⟨launchIllegal { s with inputs := rest }, ?_, raiseRefusal_refusedBy _ _ _⟩
    simp [step, nextTurn_start hi (by decide) hb, decode_of_reservedBit hw, illegalTurn, hb]
  · rw [step_regWrite (r := .desc .ctrl) hi (startsJob_desc .ctrl v s)]
    simp [hostRegWrite, hb, Desc.set]

theorem isC_kind (i : Instr) : i.kind.isC = formatC i := by cases i <;> rfl

/-- 60 R294: a word illegal for the operation is no format, or a format of the wrong shape. -/
theorem fmtShapeOk_of_illegal {i : Instr} {w : Word} {f : Fmt} (hw : FmtIllegal i w) (hf : decodeFmt w = .ok f) :
    fmtShapeOk i.kind f = false := by
  obtain ⟨ha, hb, -, hsubs, harr, hres⟩ := decodeFmt_eq_ok_iff.1 hf
  have hacode := f.surfA.code_bounds
  have hbcode := surfBCode_le f.surfB
  have hsubsCode := f.subs.code_lt
  have harrCode := f.arr.code_lt
  obtain h | h | h | h | h | h | ⟨hC, h⟩ | ⟨hS, h⟩ := hw
  · exact absurd ((fmtReservedClear_iff w).1 hres) h
  · omega
  · omega
  · omega
  · omega
  · omega
  · rw [hb, ne_eq, surfBCode_eq_zero] at h
    simpa [fmtShapeOk, isC_kind, hC] using Option.isSome_iff_ne_none.2 h
  · rw [hb, hsubs, harr, ne_eq, ne_eq, surfBCode_eq_zero, Subs.code_eq_zero, Arr.code_eq_zero] at h
    obtain h | h | h := h <;> simp [fmtShapeOk, isC_kind, hS, h]

/-- E_OP for FMT comes before every other check of an accepted CTRL word (60 R293). -/
theorem resolve_of_illegalFmt {i : Instr} {c : Config} {d : Desc} (h : FmtIllegal i d.fmt) :
    resolve i c d = .error ⟨.op, .desc .fmt⟩ := by
  have hj : decodeJob i c d = .error ⟨.op, .desc .fmt⟩ := by
    unfold decodeJob
    cases hf : decodeFmt d.fmt with
    | error e => rfl
    | ok f => exact if_pos (fmtShapeOk_of_illegal h hf)
  rw [resolve, hj]

/-- Settles O7: the launch refuses what `resolve` refuses. -/
theorem reservedFmtBitsRefuseEveryJob : Obligations.ReservedFmtBitsRefuseEveryJob := by
  refine ⟨fun i s hb hw => ⟨launch i s, exec_eq_launch hb, ?_⟩, rfl⟩
  rw [launch, resolve_of_illegalFmt hw]
  exact raiseRefusal_refusedBy _ _ _

end Sys2Proof.Machine
end

section
/-! Job lines (30 R108 to R111): a line's writes as steps of the port, the value each register is left with, and
the coefficients of a pair `(kr, kb)` as the formulas of 40 R140 to R142. -/

namespace Sys2Proof.Machine

/-! ### Descriptor writes as steps (10 R22, 30 R109) -/

theorem step_descWrite {s : State} {rest : List Input} {r : DescReg} {v : Word} (hb : s.busy = false)
    (hi : s.inputs = .regWrite r.offset 4 v :: rest) :
    step s = .next { s with inputs := rest, desc := s.desc.set r v } := by
  rw [step_regWrite (r := .desc r) hi (startsJob_desc r v s)]
  simp [hostRegWrite, hb]

theorem run_succ_of_next {M : Host.Core} {k : Nat} {s u : M.State} (h : M.step s = .next u) :
    M.run (k + 1) s = M.run k u := by
  rw [Host.Core.run, h]

/-- The port takes a list of descriptor writes one per step. -/
theorem steps_writeInputs {ws : List (DescReg × Word)} {s : State} {rest : List Input} (hb : s.busy = false)
    (hi : s.inputs = writeInputs ws ++ rest) :
    Steps ws.length s { s with inputs := rest, desc := s.desc.applyWrites ws } := by
  induction ws generalizing s with
  | nil =>
    obtain rfl : s.inputs = rest := hi
    rfl
  | cons p ws ih =>
    exact (run_succ_of_next (step_descWrite hb hi)).trans
      (ih (s := { s with inputs := writeInputs ws ++ rest, desc := s.desc.set p.1 p.2 }) hb rfl)

/-! ### A descriptor after a list of writes -/

theorem Desc.applyWrites_cons (d : Desc) (p : DescReg × Word) (ws : List (DescReg × Word)) :
    d.applyWrites (p :: ws) = (d.set p.1 p.2).applyWrites ws := rfl

theorem Desc.get_applyWrites_of_unnamed {ws : List (DescReg × Word)} {r : DescReg} (h : ∀ v, (r, v) ∉ ws) (d : Desc) :
    (d.applyWrites ws).get r = d.get r := by
  induction ws generalizing d with
  | nil => rfl
  | cons p ws ih =>
    have hr : r ≠ p.1 := by
      rintro rfl
      exact h p.2 List.mem_cons_self
    rw [Desc.applyWrites_cons, ih fun v hv => h v (List.mem_cons_of_mem p hv), Desc.get_set_other d p.2 hr]

/-- A register that is only ever written one value is left with it. -/
theorem Desc.get_applyWrites_of_named {ws : List (DescReg × Word)} {r : DescReg} {v : Word} (h : (r, v) ∈ ws)
    (hone : ∀ v', (r, v') ∈ ws → v' = v) (d : Desc) : (d.applyWrites ws).get r = v := by
  induction ws generalizing d with
  | nil => cases h
  | cons p ws ih =>
    rw [Desc.applyWrites_cons]
    by_cases htail : (r, v) ∈ ws
    · exact ih htail (fun v' hv' => hone v' (List.mem_cons_of_mem p hv')) _
    · obtain rfl : (r, v) = p := (List.mem_cons.1 h).resolve_right htail
      have hunnamed : ∀ v', (r, v') ∉ ws := fun v' hv' =>
        htail (hone v' (List.mem_cons_of_mem _ hv') ▸ hv')
      rw [Desc.get_applyWrites_of_unnamed hunnamed, Desc.get_set_same]

/-! ### The writes of a line (30 R108, R109) -/

/-- What a line writes to each register, `none` where it does not name it. -/
def JobLine.value (l : JobLine) : DescReg → Option Word
  | .ctrl => some (encode l.job)
  | .fmt => some l.fmtWord
  | .width => some l.w
  | .height => some l.h
  | .aPtr => l.a.map SurfKey.ptr
  | .aStride => l.a.map SurfKey.stride
  | .bPtr => l.b.map SurfKey.ptr
  | .bStride => l.b.map SurfKey.stride
  | .yPtr => l.y.map PlaneKey.ptr
  | .yStride => l.y.map PlaneKey.stride
  | .uPtr => l.u.map PlaneKey.ptr
  | .uStride => l.u.map PlaneKey.stride
  | .vPtr => l.v.map PlaneKey.ptr
  | .vStride => l.v.map PlaneKey.stride
  | .m0 => l.m.map fun k => BitVec.ofInt 32 (k.coeffs l.job l.bits.toNat).m0
  | .m1 => l.m.map fun k => BitVec.ofInt 32 (k.coeffs l.job l.bits.toNat).m1
  | .m2 => l.m.map fun k => BitVec.ofInt 32 (k.coeffs l.job l.bits.toNat).m2
  | .m3 => l.m.map fun k => BitVec.ofInt 32 (k.coeffs l.job l.bits.toNat).m3
  | .m4 => l.m.map fun k => BitVec.ofInt 32 (k.coeffs l.job l.bits.toNat).m4
  | .m5 => l.m.map fun k => BitVec.ofInt 32 (k.coeffs l.job l.bits.toNat).m5
  | .m6 => l.m.map fun k => BitVec.ofInt 32 (k.coeffs l.job l.bits.toNat).m6
  | .m7 => l.m.map fun k => BitVec.ofInt 32 (k.coeffs l.job l.bits.toNat).m7
  | .m8 => l.m.map fun k => BitVec.ofInt 32 (k.coeffs l.job l.bits.toNat).m8

section
variable {r p q : DescReg} {v : Word}

theorem mem_planeWrites {k : Option PlaneKey} :
    (r, v) ∈ planeWrites p q k ↔ r = p ∧ k.map PlaneKey.ptr = some v ∨ r = q ∧ k.map PlaneKey.stride = some v := by
  cases k <;> simp [planeWrites, eq_comm]

theorem mem_surfWrites {k : Option SurfKey} :
    (r, v) ∈ surfWrites p q k ↔ r = p ∧ k.map SurfKey.ptr = some v ∨ r = q ∧ k.map SurfKey.stride = some v := by
  cases k <;> simp [surfWrites, eq_comm]

theorem mem_matrixWrites {job : Instr} {bits : Nat} {k : Option MatrixKey} :
    (r, v) ∈ matrixWrites job bits k ↔ ∃ m, k = some m ∧ (r, v) ∈ (m.coeffs job bits).writes := by
  cases k <;> simp [matrixWrites]

/-- No two writes of a line name one register. -/
theorem JobLine.mem_writes (l : JobLine) : (r, v) ∈ l.writes ↔ l.value r = some v := by
  simp only [JobLine.writes, List.mem_append, mem_planeWrites, mem_surfWrites, mem_matrixWrites, Coeffs.writes,
    List.mem_cons, List.not_mem_nil, or_false, Prod.mk.injEq]
  cases r <;> simp [JobLine.value, eq_comm]

end

/-- A line leaves each register with the value it writes there, and with its old one where it writes none. -/
theorem JobLine.get_applyWrites (l : JobLine) (d : Desc) (r : DescReg) :
    (d.applyWrites l.writes).get r = (l.value r).getD (d.get r) := by
  cases hval : l.value r with
  | none => exact Desc.get_applyWrites_of_unnamed (fun v hv => by simp [l.mem_writes, hval] at hv) d
  | some v =>
    have hone : ∀ v', (r, v') ∈ l.writes → v' = v := fun v' hv' =>
      Option.some.inj ((l.mem_writes.1 hv').symm.trans hval)
    exact Desc.get_applyWrites_of_named (l.mem_writes.2 hval) hone d

section
variable {α : Type} {k : Option α} {f g : α → Word} {x y x' y' : Word}

theorem eq_of_getD_none (hx : x = (k.map f).getD x') (h : k = none) : x = x' := by
  rw [hx, h]
  rfl

theorem eq_of_getD_some (hx : x = (k.map f).getD x') {e : α} (h : k = some e) : x = f e := by
  rw [hx, h]
  rfl

/-- Two registers that one key of a line sets together. -/
theorem pair_of_getD (hx : x = (k.map f).getD x') (hy : y = (k.map g).getD y') :
    (k = none → x = x' ∧ y = y') ∧ ∀ e, k = some e → x = f e ∧ y = g e :=
  ⟨fun h => ⟨eq_of_getD_none hx h, eq_of_getD_none hy h⟩, fun _ h => ⟨eq_of_getD_some hx h, eq_of_getD_some hy h⟩⟩

end

section
variable (l : JobLine) (d : Desc)

theorem JobLine.matrixHolds_applyWrites {k : MatrixKey} (h : l.m = some k) :
    MatrixHolds (d.applyWrites l.writes) (k.coeffs l.job l.bits.toNat) := by
  have hget := l.get_applyWrites d
  exact ⟨eq_of_getD_some (hget .m0) h, eq_of_getD_some (hget .m1) h, eq_of_getD_some (hget .m2) h,
    eq_of_getD_some (hget .m3) h, eq_of_getD_some (hget .m4) h, eq_of_getD_some (hget .m5) h,
    eq_of_getD_some (hget .m6) h, eq_of_getD_some (hget .m7) h, eq_of_getD_some (hget .m8) h⟩

/-- FMT holds the line's fields (30 R100, R108): an omitted surface has code 0. -/
theorem JobLine.fmtHolds_fmtWord :
    FmtHolds l.fmtWord (l.a.map SurfKey.surf) (l.b.map SurfKey.surf) l.bits.toNat l.subs l.arr := by
  have hcode (k : Option SurfKey) : surfKeyCode k = surfBCode (k.map SurfKey.surf) := by cases k <;> rfl
  have hword : l.fmtWord =
      formatWord (surfBCode (l.a.map SurfKey.surf)) (surfBCode (l.b.map SurfKey.surf)) l.bits.toNat l.subs.code
        l.arr.code := by
    rw [JobLine.fmtWord, hcode, hcode]
    rfl
  rw [hword]
  exact fmtHolds_formatWord _ _ _ _ _

end

/-! ### The coefficients of a pair (40 R140 to R142) -/

theorem maxv_cast (n : Nat) : (maxv n : Rat) = 2 ^ n - 1 := by
  rw [maxv, Nat.cast_sub Nat.one_le_two_pow]
  norm_num

theorem encCoeffs_eq_formula (kr kb : Rat) (range : YuvRange) (n : Nat) :
    encCoeffs kr kb range n = formulaCoeffs true kr kb range n := by
  cases range <;> simp [encCoeffs, formulaCoeffs, coeff, matrixScales, maxv_cast]

theorem decCoeffs_eq_formula (kr kb : Rat) (range : YuvRange) (n : Nat) :
    decCoeffs kr kb range n = formulaCoeffs false kr kb range n := by
  cases range <;> simp [decCoeffs, formulaCoeffs, coeff, matrixScales, maxv_cast]

section
variable (kr kb : Rat) (model : ColorModel) (rot : BitVec 2) (range : YuvRange) (tf : BitVec 4) (n : Nat)

/-- A pair stands for the derivation of the line's job (30 R111). -/
theorem krkb_coeffs_enc :
    (MatrixKey.krkb kr kb).coeffs (.enc model rot range tf) n = formulaCoeffs true kr kb range n :=
  encCoeffs_eq_formula kr kb range n

theorem krkb_coeffs_dec :
    (MatrixKey.krkb kr kb).coeffs (.dec model rot range tf) n = formulaCoeffs false kr kb range n :=
  decCoeffs_eq_formula kr kb range n

end

/-- Four of the coefficient sets of 40 R144 and R145, computed from the pairs of the presets. -/
theorem coefficientTables :
    formulaCoeffs true (299 / 1000) (114 / 1000) .tv 8 =
      ⟨16829, 33039, 6416, -9714, -19071, 28784, 28784, -24103, -4681⟩ ∧
    formulaCoeffs false (299 / 1000) (114 / 1000) .pc 8 =
      ⟨65536, 0, 91881, 65536, -22553, -46802, 65536, 116130, 0⟩ ∧
    formulaCoeffs true (2126 / 10000) (722 / 10000) .tv 10 =
      ⟨11931, 40136, 4052, -6576, -22124, 28700, 28700, -26068, -2632⟩ ∧
    formulaCoeffs false (2627 / 10000) (593 / 10000) .tv 16 =
      ⟨76607, 0, 110443, 76607, -12325, -42793, 76607, 140911, 0⟩ := by
  rw [← encCoeffs_eq_formula, ← decCoeffs_eq_formula, ← encCoeffs_eq_formula, ← decCoeffs_eq_formula]
  decide +kernel

/-- Settles O60: the writes as steps, then each register by what the line writes to it. -/
theorem jobLineLoadsTheDescriptor : Obligations.JobLineLoadsTheDescriptor := by
  refine ⟨fun l polls s rest hb hi => ?_, fun name => by cases name <;> rfl, rfl, rfl, rfl, coefficientTables⟩
  have hi' : s.inputs = writeInputs l.writes ++ (startInput :: (List.replicate polls pollInput ++ rest)) := by
    rw [hi, JobLine.inputs, List.append_assoc, List.cons_append]
  have hget := l.get_applyWrites s.desc
  obtain ⟨hnoA, hA⟩ := pair_of_getD (k := l.a) (hget .aPtr) (hget .aStride)
  obtain ⟨hnoB, hB⟩ := pair_of_getD (k := l.b) (hget .bPtr) (hget .bStride)
  obtain ⟨hnoY, hY⟩ := pair_of_getD (k := l.y) (hget .yPtr) (hget .yStride)
  obtain ⟨hnoU, hU⟩ := pair_of_getD (k := l.u) (hget .uPtr) (hget .uStride)
  obtain ⟨hnoV, hV⟩ := pair_of_getD (k := l.v) (hget .vPtr) (hget .vStride)
  refine ⟨_, steps_writeInputs hb hi', rfl, hget .ctrl, ?_, hget .width, hget .height, hnoA, hA, hnoB, hB, hnoY, hY,
    hnoU, hU, hnoV, hV, fun h => ?_, fun c h => l.matrixHolds_applyWrites s.desc h, ?_⟩
  · have hfmt : (s.desc.applyWrites l.writes).fmt = l.fmtWord := hget .fmt
    rw [hfmt]
    exact l.fmtHolds_fmtWord
  · exact ⟨eq_of_getD_none (hget .m0) h, eq_of_getD_none (hget .m1) h, eq_of_getD_none (hget .m2) h,
      eq_of_getD_none (hget .m3) h, eq_of_getD_none (hget .m4) h, eq_of_getD_none (hget .m5) h,
      eq_of_getD_none (hget .m6) h, eq_of_getD_none (hget .m7) h, eq_of_getD_none (hget .m8) h⟩
  · intro kr kb h _ _ _ _ model rot range tf
    have hmat := l.matrixHolds_applyWrites s.desc h
    constructor <;> intro hjob <;> rw [hjob] at hmat
    · rwa [krkb_coeffs_enc] at hmat
    · rwa [krkb_coeffs_dec] at hmat

end Sys2Proof.Machine
end

section
/-! The colour round trip at 4:4:4 (40 R133 to R137, R147). A stored sample is within half a unit of its accumulator, so
a decoder row meets the exact product of the two matrices up to half the sum of its coefficients' sizes. Whether a pair
of matrices keeps a bound is then a finite check on its coefficients, which the presets' pairs pass. -/

namespace Sys2Proof.Machine

/-! ### Rounding and the clamp (40 R136, R137) -/

theorem abs_roundAcc_sub_le (acc : Int) : |65536 * roundAcc acc - acc| ≤ 32768 := by
  rw [abs_le, roundAcc, asr]
  omega

theorem clampSample_eq (v : Int) (n : Nat) : (clampSample v n : Int) = min (max v 0) (maxv n) := by
  rw [clampSample, clamp]
  split_ifs <;> omega

/-- The clamp brings a value no further from a sample of the range. -/
theorem abs_clampSample_sub_le {v x : Int} {n : Nat} (h0 : 0 ≤ x) (h1 : x ≤ maxv n) :
    |(clampSample v n : Int) - x| ≤ |v - x| := by
  rw [clampSample_eq, abs_le]
  have := abs_le.1 (le_refl |v - x|)
  omega

/-- An accumulator at most half a unit outside the range is stored within half a unit. -/
theorem abs_clampSample_roundAcc_sub_le {acc : Int} {n : Nat} (h0 : -32768 ≤ acc)
    (h1 : acc ≤ (maxv n : Int) * 65536 + 32768) : |65536 * (clampSample (roundAcc acc) n : Int) - acc| ≤ 32768 := by
  have hround := abs_le.1 (abs_roundAcc_sub_le acc)
  rw [clampSample_eq, abs_le]
  omega

/-- The chroma of a block of one pixel rounds as luma does (40 R134). -/
theorem decimate_one (acc : Int) (n : Nat) :
    decimate acc 1 n = clampSample (roundAcc (acc + (cbias n : Int) * 65536)) n := by
  simp [decimate, roundAcc, asr, add_assoc]

/-! ### Rows of a matrix on components of the range -/

/-- The least value of a row on components from 0 to `top`. -/
def dotMin (top a b c : Int) : Int := (min a 0 + min b 0 + min c 0) * top

/-- The greatest value of a row on components from 0 to `top`. -/
def dotMax (top a b c : Int) : Int := (max a 0 + max b 0 + max c 0) * top

theorem min_mul_le {top x : Int} (a : Int) (h0 : 0 ≤ x) (h1 : x ≤ top) : min a 0 * top ≤ a * x :=
  calc min a 0 * top ≤ min a 0 * x := mul_le_mul_of_nonpos_left h1 (min_le_right a 0)
    _ ≤ a * x := mul_le_mul_of_nonneg_right (min_le_left a 0) h0

theorem mul_le_max_mul {top x : Int} (a : Int) (h0 : 0 ≤ x) (h1 : x ≤ top) : a * x ≤ max a 0 * top :=
  calc a * x ≤ max a 0 * x := mul_le_mul_of_nonneg_right (le_max_left a 0) h0
    _ ≤ max a 0 * top := mul_le_mul_of_nonneg_left h1 (le_max_right a 0)

section
variable {n r g b : Nat} (hr : r ≤ maxv n) (hg : g ≤ maxv n) (hb : b ≤ maxv n)
include hr hg hb

theorem dotMin_le_dot (a₀ a₁ a₂ : Int) : dotMin (maxv n) a₀ a₁ a₂ ≤ dot a₀ a₁ a₂ r g b := by
  rw [dotMin, dot, add_mul, add_mul]
  exact add_le_add (add_le_add (min_mul_le a₀ (Int.natCast_nonneg r) (Int.ofNat_le.2 hr))
    (min_mul_le a₁ (Int.natCast_nonneg g) (Int.ofNat_le.2 hg))) (min_mul_le a₂ (Int.natCast_nonneg b) (Int.ofNat_le.2 hb))

theorem dot_le_dotMax (a₀ a₁ a₂ : Int) : dot a₀ a₁ a₂ r g b ≤ dotMax (maxv n) a₀ a₁ a₂ := by
  rw [dotMax, dot, add_mul, add_mul]
  exact add_le_add (add_le_add (mul_le_max_mul a₀ (Int.natCast_nonneg r) (Int.ofNat_le.2 hr))
    (mul_le_max_mul a₁ (Int.natCast_nonneg g) (Int.ofNat_le.2 hg)))
    (mul_le_max_mul a₂ (Int.natCast_nonneg b) (Int.ofNat_le.2 hb))

end

/-- A row moves at most by the sizes of its coefficients times the largest move of an input. -/
theorem abs_dot_sub_dot_le {x y z x' y' z' ε : Int} (a b c : Int) (hx : |x - x'| ≤ ε) (hy : |y - y'| ≤ ε)
    (hz : |z - z'| ≤ ε) : |dot a b c x y z - dot a b c x' y' z'| ≤ (|a| + |b| + |c|) * ε :=
  calc |dot a b c x y z - dot a b c x' y' z'|
    _ = |a * (x - x') + b * (y - y') + c * (z - z')| := by rw [dot, dot]; ring_nf
    _ ≤ |a| * |x - x'| + |b| * |y - y'| + |c| * |z - z'| := by
      simpa only [abs_mul] using abs_add_three (a * (x - x')) (b * (y - y')) (c * (z - z'))
    _ ≤ |a| * ε + |b| * ε + |c| * ε := by gcongr
    _ = (|a| + |b| + |c|) * ε := by ring

/-! ### The check on a pair of matrices -/

/-- On components of the range, an encoder row with offset `off` leaves the range by half a unit at most. -/
abbrev RowFits (n : Nat) (off a b c : Int) : Prop :=
  -32768 ≤ dotMin (maxv n) a b c + off * 65536 ∧ dotMax (maxv n) a b c + off * 65536 ≤ (maxv n : Int) * 65536 + 32768

/-- The decoder row `d` recovers the component picked by the unit row `t` within `k`: in units of `2^-32`, the rounding
of the three stored samples and the difference of `d` times the encoder matrix from `t` stay below `k + 1/2`. -/
abbrev RowRecovers (n : Nat) (m : Coeffs) (d₀ d₁ d₂ t₀ t₁ t₂ : Int) (k : Nat) : Prop :=
  let e₀ := dot d₀ d₁ d₂ m.m0 m.m3 m.m6 - 2 ^ 32 * t₀
  let e₁ := dot d₀ d₁ d₂ m.m1 m.m4 m.m7 - 2 ^ 32 * t₁
  let e₂ := dot d₀ d₁ d₂ m.m2 m.m5 m.m8 - 2 ^ 32 * t₂
  let noise := (|d₀| + |d₁| + |d₂|) * 32768
  noise - dotMin (maxv n) e₀ e₁ e₂ < 2 ^ 32 * (k : Int) + 2 ^ 31 ∧
    noise + dotMax (maxv n) e₀ e₁ e₂ < 2 ^ 32 * (k : Int) + 2 ^ 31

/-- The encoder matrix `m` keeps within the range, and the decoder matrix `d` recovers red within `kR`, green within
`kG` and blue within `kB`. -/
abbrev PairRecovers (m d : Coeffs) (range : YuvRange) (n kR kG kB : Nat) : Prop :=
  (RowFits n (yoff n range) m.m0 m.m1 m.m2 ∧ RowFits n (cbias n) m.m3 m.m4 m.m5 ∧ RowFits n (cbias n) m.m6 m.m7 m.m8) ∧
  RowRecovers n m d.m0 d.m1 d.m2 1 0 0 kR ∧ RowRecovers n m d.m3 d.m4 d.m5 0 1 0 kG ∧
  RowRecovers n m d.m6 d.m7 d.m8 0 0 1 kB

/-- A decoder row on the encoder's accumulators, less the component `t` picks, is one row on the pixel. -/
theorem dot_acc_sub (m : Coeffs) (d₀ d₁ d₂ t₀ t₁ t₂ : Int) (r g b : Nat) :
    dot d₀ d₁ d₂ (accY m r g b) (accU m r g b) (accV m r g b) - 2 ^ 32 * dot t₀ t₁ t₂ r g b =
      dot (dot d₀ d₁ d₂ m.m0 m.m3 m.m6 - 2 ^ 32 * t₀) (dot d₀ d₁ d₂ m.m1 m.m4 m.m7 - 2 ^ 32 * t₁)
        (dot d₀ d₁ d₂ m.m2 m.m5 m.m8 - 2 ^ 32 * t₂) r g b := by
  simp only [dot, accY, accU, accV]
  ring

section
variable {n r g b : Nat} (hr : r ≤ maxv n) (hg : g ≤ maxv n) (hb : b ≤ maxv n)
include hr hg hb

/-- What the decoder gets back from a stored sample, its offset removed, is within half a unit of the accumulator. -/
theorem abs_stored_sub_dot_le {off a₀ a₁ a₂ : Int} (hfit : RowFits n off a₀ a₁ a₂) :
    |65536 * ((clampSample (roundAcc (dot a₀ a₁ a₂ r g b + off * 65536)) n : Int) - off) - dot a₀ a₁ a₂ r g b|
      ≤ 32768 := by
  obtain ⟨hlow, hhigh⟩ := hfit
  have hmin := dotMin_le_dot hr hg hb a₀ a₁ a₂
  have hmax := dot_le_dotMax hr hg hb a₀ a₁ a₂
  have hstored := abs_clampSample_roundAcc_sub_le (acc := dot a₀ a₁ a₂ r g b + off * 65536) (n := n) (by omega) (by omega)
  rw [abs_le] at hstored ⊢
  omega

/-- A decoder row that passes the check gives its component back within `k` from any three samples that lie within half
a unit of the accumulators. -/
theorem rowRecovers_within {m : Coeffs} {d₀ d₁ d₂ t₀ t₁ t₂ y u v : Int} {x k : Nat}
    (hrow : RowRecovers n m d₀ d₁ d₂ t₀ t₁ t₂ k) (hx : x ≤ maxv n) (ht : dot t₀ t₁ t₂ r g b = x)
    (hy : |65536 * y - accY m r g b| ≤ 32768) (hu : |65536 * u - accU m r g b| ≤ 32768)
    (hv : |65536 * v - accV m r g b| ≤ 32768) :
    ((clampSample (roundAcc (dot d₀ d₁ d₂ y u v)) n : Int) - x).natAbs ≤ k := by
  obtain ⟨hlow, hhigh⟩ := hrow
  have hsamples := abs_le.1 (abs_dot_sub_dot_le d₀ d₁ d₂ hy hu hv)
  have hscale : dot d₀ d₁ d₂ (65536 * y) (65536 * u) (65536 * v) = 65536 * dot d₀ d₁ d₂ y u v := by
    simp only [dot]
    ring
  have hproduct := dot_acc_sub m d₀ d₁ d₂ t₀ t₁ t₂ r g b
  have hmin := (dotMin_le_dot hr hg hb _ _ _).trans_eq hproduct.symm
  have hmax := hproduct.trans_le (dot_le_dotMax hr hg hb _ _ _)
  have hround := abs_le.1 (abs_roundAcc_sub_le (dot d₀ d₁ d₂ y u v))
  have hclamp := abs_clampSample_sub_le (v := roundAcc (dot d₀ d₁ d₂ y u v)) (Int.natCast_nonneg x) (Int.ofNat_le.2 hx)
  have hwithin : |roundAcc (dot d₀ d₁ d₂ y u v) - x| ≤ k := by
    rw [abs_le]
    omega
  have hback := abs_le.1 (hclamp.trans hwithin)
  omega

/-- A pair that passes the check keeps its bounds on every pixel of the range (40 R147). -/
theorem pairRecovers_within {m d : Coeffs} {range : YuvRange} {kR kG kB : Nat}
    (hpair : PairRecovers m d range n kR kG kB) :
    let back := inverse d range n (forwardY m range n r g b) (decimate (accU m r g b) 1 n) (decimate (accV m r g b) 1 n)
    ((back.1 : Int) - r).natAbs ≤ kR ∧ ((back.2.1 : Int) - g).natAbs ≤ kG ∧ ((back.2.2 : Int) - b).natAbs ≤ kB := by
  obtain ⟨⟨hfitY, hfitU, hfitV⟩, hred, hgreen, hblue⟩ := hpair
  rw [decimate_one, decimate_one]
  have hy := abs_stored_sub_dot_le hr hg hb hfitY
  have hu := abs_stored_sub_dot_le hr hg hb hfitU
  have hv := abs_stored_sub_dot_le hr hg hb hfitV
  exact ⟨rowRecovers_within hr hg hb hred hr (by simp [dot]) hy hu hv,
    rowRecovers_within hr hg hb hgreen hg (by simp [dot]) hy hu hv,
    rowRecovers_within hr hg hb hblue hb (by simp [dot]) hy hu hv⟩

end

/-! ### The presets at 8 bits (40 R144, R145, R147) -/

theorem preset_pairRecovers_pc (p : Preset) :
    PairRecovers (encCoeffs p.kr p.kb .pc 8) (decCoeffs p.kr p.kb .pc 8) .pc 8 1 1 1 := by
  cases p <;> decide +kernel

theorem preset_pairRecovers_tv (p : Preset) :
    PairRecovers (encCoeffs p.kr p.kb .tv 8) (decCoeffs p.kr p.kb .tv 8) .tv 8 1 1 2 := by
  cases p <;> decide +kernel

/-- Settles O43: the presets' PC matrices pass the check with bound 1 on every channel. -/
theorem pcRoundTripWithinOne : Obligations.PcRoundTripWithinOne := fun p _ _ _ hr hg hb =>
  pairRecovers_within (Nat.le_of_lt_succ hr) (Nat.le_of_lt_succ hg) (Nat.le_of_lt_succ hb) (preset_pairRecovers_pc p)

/-- Settles O44: the presets' TV matrices pass the check with bound 2 on blue, which conflict C2 of spec/90 allows. -/
theorem tvRoundTripWithinTwoOnBlue : Obligations.TvRoundTripWithinTwoOnBlue := fun p _ _ _ hr hg hb =>
  pairRecovers_within (Nat.le_of_lt_succ hr) (Nat.le_of_lt_succ hg) (Nat.le_of_lt_succ hb) (preset_pairRecovers_tv p)

end Sys2Proof.Machine
end

section
/-! The geometry of the chroma subsampler (41 R162 to R164). A band and a row of chroma blocks cut their axis alike: cell
`j` of an axis of `n` positions with factor `f` is `range' (j * f) (min f (n - j * f))`, and `ceilDiv n f` cells are
not empty. -/

namespace Sys2Proof.Machine

/-! ### One axis cut into cells -/

/-- The cells that `ceilDiv` counts are those that begin inside the axis. -/
theorem lt_ceilDiv_iff {n f : Nat} (hf : 0 < f) (j : Nat) : j < ceilDiv n f ↔ j * f < n := by
  rw [ceilDiv, ← Nat.add_one_le_iff, Nat.le_div_iff_mul_le hf, Nat.add_one_mul]
  omega

theorem mem_cell_iff (n f j x : Nat) :
    x ∈ List.range' (j * f) (min f (n - j * f)) ↔ j * f ≤ x ∧ x < (j + 1) * f ∧ x < n := by
  rw [List.mem_range'_1, Nat.add_one_mul]
  omega

/-- A position belongs to the cell its quotient names. -/
theorem mem_cell_iff_div {f : Nat} (hf : 0 < f) (n j x : Nat) :
    x ∈ List.range' (j * f) (min f (n - j * f)) ↔ x < n ∧ x / f = j := by
  rw [mem_cell_iff, ← Nat.le_div_iff_mul_le hf, ← Nat.div_lt_iff_lt_mul hf]
  omega

/-! ### Bands and blocks -/

section
variable {job : Job}

theorem Job.mem_bandRows_iff_div (hsy : 0 < job.sy) (j y : Nat) : y ∈ job.bandRows j ↔ y < job.h ∧ y / job.sy = j :=
  mem_cell_iff_div hsy job.h j y

/-- The band of a luma row is the quotient of its number (41 R163). -/
theorem Job.existsUnique_band (hsy : 0 < job.sy) {y : Nat} (hy : y < job.h) :
    ∃! j, j < job.nbands ∧ y ∈ job.bandRows j := by
  refine ⟨y / job.sy, ⟨?_, (Job.mem_bandRows_iff_div hsy _ y).2 ⟨hy, rfl⟩⟩, ?_⟩
  · exact (lt_ceilDiv_iff hsy _).2 ((Nat.div_mul_le_self y job.sy).trans_lt hy)
  · rintro j ⟨-, hj⟩
    exact ((Job.mem_bandRows_iff_div hsy j y).1 hj).2.symm

/-- `cnt(cx, cy) = bw * bh` counts the positions of a block (41 R164). -/
theorem Job.length_block (job : Job) (cx cy : Nat) : (job.block cx cy).length = job.blockCount cx cy := by
  simp [Job.block, Job.bandRows, Job.blockCount, Nat.mul_comm]

theorem Job.blockCount_pos (hsx : 0 < job.sx) (hsy : 0 < job.sy) {cx cy : Nat} (hcx : cx < job.cw) (hcy : cy < job.ch) :
    0 < job.blockCount cx cy := by
  have hw : cx * job.sx < job.w := (lt_ceilDiv_iff hsx cx).1 hcx
  have hh : cy * job.sy < job.h := (lt_ceilDiv_iff hsy cy).1 hcy
  refine Nat.mul_pos ?_ ?_
  · rw [Job.blockWidth]; omega
  · rw [Job.bandHeight]; omega

/-- A block holds exactly the existing positions whose quotients are the chroma sample's (41 R164). -/
theorem Job.mem_block_iff (hsx : 0 < job.sx) (hsy : 0 < job.sy) (cx cy x y : Nat) :
    (x, y) ∈ job.block cx cy ↔ x < job.w ∧ y < job.h ∧ x / job.sx = cx ∧ y / job.sy = cy := by
  have hcell : (x, y) ∈ job.block cx cy ↔
      y ∈ job.bandRows cy ∧ x ∈ List.range' (cx * job.sx) (job.blockWidth cx) := by
    simp [Job.block]
  rw [hcell, Job.mem_bandRows_iff_div hsy, Job.blockWidth, mem_cell_iff_div hsx]
  tauto

end

/-- Settles O56: rows and columns are one axis each, and a block is a cell of the one by a cell of the other. -/
theorem bandsPartTheRows : Obligations.BandsPartTheRows := by
  intro job hsx hsy
  refine ⟨rfl, rfl, rfl, mem_cell_iff job.h job.sy, fun y hy => Job.existsUnique_band hsy hy, fun cx hcx cy hcy => ?_⟩
  have hlen := job.length_block cx cy
  exact ⟨hlen, hlen ▸ Job.blockCount_pos hsx hsy hcx hcy, Job.mem_block_iff hsx hsy cx cy⟩

end Sys2Proof.Machine
end

section
/-! What a band leaves in memory (44 R251 to R254): its stores are to its elements, one each, so after it every element
holds its value. ENC to the two semi-planar arrangements (41 R177) then differs in which value goes to which element of
a pair. -/

namespace Sys2Proof.Machine

/-! ### The stores of a band -/

/-- The stores of a row of format S are to the elements of that row of surface B (44 R254). -/
theorem rowBand_elems (f : Job → Px → Px) (job : Job) (m : Memory) (j : Nat) :
    (rowBand f job m j).map Store.elem = job.refB.rowElems job.w j := by
  simp only [rowBand, SurfRef.rowElems, List.map_flatMap, SurfRef.pack_elems]

theorem encBand_elems {job : Job} (hk : job.kind = .enc) (m : Memory) (j : Nat) :
    (encBand job m j).map Store.elem = job.bandElems j := by
  rw [encBand, Job.bandElems, hk, List.map_append]
  congr 1
  · simp only [List.map_flatMap, List.map_map, Function.comp_def]
  · split
    · simp only [List.map_flatMap, List.map_cons, List.map_nil]
    · rfl

theorem decBand_elems {job : Job} (hk : job.kind = .dec) (m : Memory) (j : Nat) :
    (decBand job m j).map Store.elem = job.bandElems j := by
  simp only [decBand, Job.bandElems, hk, SurfRef.rowElems, List.map_flatMap, SurfRef.pack_elems]

/-- Every format S operation is a row of one function from pixel to pixel (44 R254). -/
theorem bandOf_formatS {i : Instr} (hS : i.kind.isC = false) : ∃ f, bandOf i = rowBand f := by
  cases i with
  | enc => cases hS
  | dec => cases hS
  | _ => exact ⟨_, rfl⟩

/-- The stores of a band are to the elements of the band, in order (44 R252 to R254). -/
theorem bandOf_elems {i : Instr} {job : Job} (hk : job.kind = i.kind) (m : Memory) (j : Nat) :
    (bandOf i job m j).map Store.elem = job.bandElems j := by
  cases hC : i.kind.isC with
  | false =>
    obtain ⟨f, hf⟩ := bandOf_formatS hC
    rw [hf, rowBand_elems, Job.bandElems_formatS (hk ▸ hC), job.planeB_isOf.rowElems job.esB_pos]
  | true =>
    cases i with
    | enc => exact encBand_elems hk m j
    | dec => exact decBand_elems hk m j
    | _ => cases hC

/-! ### Memory after a band -/

section
variable {i : Instr} {c : Config} {d : Desc} {s t : State} {job : Job}

theorem kind_of_resolve (h : resolve i c d = .ok job) : job.kind = i.kind := by
  obtain ⟨f, n, -, -, -, -, -, rfl⟩ := decodeJob_eq_ok (resolve_eq_ok.1 h).1
  rfl

theorem bandElems_subset_destElems {j : Nat} (hj : j < job.nbands) : job.bandElems j ⊆ job.destElems :=
  fun _ he => List.mem_flatMap.2 ⟨j, List.mem_range.2 hj, he⟩

/-- The elements of a band of an accepted job share no byte. -/
theorem bandElems_apart (h : resolve i c d = .ok job) {j : Nat} (hj : j < job.nbands) :
    (job.bandElems j).Pairwise Elem.apart :=
  (List.pairwise_flatMap.1 (destElems_apart h)).1 j (List.mem_range.2 hj)

theorem bandElems_inMemory (h : resolve i c d = .ok job) {j : Nat} (hj : j < job.nbands) {e : Elem}
    (he : e ∈ job.bandElems j) : e.addr + e.size ≤ addrLimit := by
  obtain ⟨p, hp, -, hep⟩ := destPlane_of_mem_destElems h (bandElems_subset_destElems hj he)
  exact (elemOk_of_mem_elems (resolve_eq_ok.1 h).2 hp hep).2.1

theorem mem_after_band (h : Running i s job) (he : exec i s = .next t) :
    t.mem = Memory.applyStores (bandOf i job s.mem s.rowPos.toNat) s.mem := by
  obtain ⟨hbusy, hres, hrow, htaint, -⟩ := h
  obtain rfl := Host.Outcome.next.inj ((exec_eq_band hbusy hres hrow).symm.trans he)
  rw [finishBand_mem, (writeBand_mem htaint).1]

/-- After a band each of its stores can be read back: no other store of the band touches its element. -/
theorem sample_after_band (h : Running i s job) (he : exec i s = .next t) {st : Store}
    (hst : st ∈ bandOf i job s.mem s.rowPos.toNat) : t.mem.sample st.elem = st.val % 256 ^ st.elem.size := by
  rw [mem_after_band h he]
  obtain ⟨-, hres, hrow, -, hwf⟩ := h
  have helems := bandOf_elems (kind_of_resolve hres) s.mem s.rowPos.toNat
  refine sample_applyStores hwf (List.pairwise_map.1 (helems ▸ bandElems_apart hres hrow)) (fun u hu => ?_) hst
  exact bandElems_inMemory hres hrow (helems ▸ List.mem_map_of_mem hu)

end

/-! ### ENC (44 R252) -/

theorem Job.uElem_size (job : Job) (cx cy : Nat) : (job.uElem cx cy).size = job.es := by
  unfold Job.uElem
  cases job.arr <;> rfl

theorem Job.vElem_size (job : Job) (cx cy : Nat) : (job.vElem cx cy).size = job.es := by
  unfold Job.vElem
  cases job.arr <;> rfl

section
variable {model : ColorModel} {rot : BitVec 2} {range : YuvRange} {tf : BitVec 4} {s t : State} {job : Job}

/-- A luma sample of the band after it. -/
theorem luma_after_encBand (h : Running (.enc model rot range tf) s job)
    (he : exec (.enc model rot range tf) s = .next t) {x y : Nat} (hy : y ∈ job.bandRows s.rowPos.toNat) (hx : x < job.w) :
    t.mem.sample (job.lumaElem x y) = encY job s.mem x y % 256 ^ job.es := by
  have hst : ⟨job.lumaElem x y, encY job s.mem x y⟩ ∈ encBand job s.mem s.rowPos.toNat :=
    List.mem_append_left _ (List.mem_flatMap.2 ⟨y, hy, List.mem_map.2 ⟨x, List.mem_range.2 hx, rfl⟩⟩)
  exact sample_after_band h he hst

/-- A pair of chroma samples of the band after it. -/
theorem chroma_after_encBand (h : Running (.enc model rot range tf) s job)
    (he : exec (.enc model rot range tf) s = .next t) (hs : job.subs ≠ .s400) {cx : Nat} (hcx : cx < job.cw) :
    t.mem.sample (job.uElem cx s.rowPos.toNat) = encU job s.mem cx s.rowPos.toNat % 256 ^ job.es ∧
    t.mem.sample (job.vElem cx s.rowPos.toNat) = encV job s.mem cx s.rowPos.toNat % 256 ^ job.es := by
  have hchroma : job.hasChroma = true := by simpa [Job.hasChroma] using hs
  have hpair {st : Store} (hst : st = ⟨job.uElem cx s.rowPos.toNat, encU job s.mem cx s.rowPos.toNat⟩ ∨
      st = ⟨job.vElem cx s.rowPos.toNat, encV job s.mem cx s.rowPos.toNat⟩) :
      t.mem.sample st.elem = st.val % 256 ^ st.elem.size := by
    refine sample_after_band h he ?_
    change st ∈ encBand job s.mem s.rowPos.toNat
    rw [encBand, if_pos hchroma]
    exact List.mem_append_right _ (List.mem_flatMap.2 ⟨cx, List.mem_range.2 hcx, by simpa using hst⟩)
  have hu := hpair (.inl rfl)
  have hv := hpair (.inr rfl)
  rw [Job.uElem_size] at hu
  rw [Job.vElem_size] at hv
  exact ⟨hu, hv⟩

end

/-! ### The two semi-planar arrangements (41 R177) -/

/-- A semi-planar job of format C has chroma: 4:0:0 takes three planes only (60 R296). -/
theorem subs_of_semiPlanar {i : Instr} {c : Config} {d : Desc} {job : Job} (h : resolve i c d = .ok job)
    (hC : job.kind.isC = true) (harr : job.arr ≠ .p3) : job.subs ≠ .s400 := by
  obtain ⟨f, n, -, -, -, -, hfmt, rfl⟩ := decodeJob_eq_ok (resolve_eq_ok.1 h).1
  intro hs
  have hs' : f.subs = .s400 := hs
  have harr' : f.arr ≠ .p3 := harr
  have hC' : i.kind.isC = true := hC
  generalize i.kind = k at hC' hfmt
  cases k with
  | enc => simp [fmtUnsupported, hs', harr'] at hfmt
  | dec => simp [fmtUnsupported, hs', harr'] at hfmt
  | _ => cases hC'

/-- The job with its chroma pairs in the order VU. -/
abbrev Job.vu (job : Job) : Job := { job with arr := .spvu }

/-- The places of U and V in a pair are exchanged (41 R167). -/
theorem Job.vu_pair {job : Job} (harr : job.arr = .spuv) (cx cy : Nat) :
    job.vu.uElem cx cy = job.vElem cx cy ∧ job.vu.vElem cx cy = job.uElem cx cy := by
  simp only [Job.uElem, Job.vElem, harr]
  exact ⟨rfl, rfl⟩

/-- Settles O55: both bands store the same luma and the same chroma values, the chroma in exchanged places. -/
theorem semiPlanarOrdersExchangePairs : Obligations.SemiPlanarOrdersExchangePairs := by
  intro model rot range tf s s' t t' job harr hrun hrun' hrow hmem he he'
  have hs : job.subs ≠ .s400 := by
    have hres := hrun.2.1
    exact subs_of_semiPlanar hres (by rw [kind_of_resolve hres]; rfl) (by rw [harr]; decide)
  refine ⟨fun y hy x hx => ?_, fun cx hcx => ?_⟩
  · have hluma := luma_after_encBand hrun' he' (x := x) (hrow ▸ hy) hx
    rw [hmem] at hluma
    exact hluma.trans (luma_after_encBand hrun he hy hx).symm
  · obtain ⟨hu, hv⟩ := chroma_after_encBand hrun he hs hcx
    obtain ⟨hu', hv'⟩ := chroma_after_encBand (job := job.vu) hrun' he' hs hcx
    rw [hrow, hmem, (Job.vu_pair harr _ _).1] at hu'
    rw [hrow, hmem, (Job.vu_pair harr _ _).2] at hv'
    exact ⟨hu'.trans hu.symm, hv'.trans hv.symm⟩

end Sys2Proof.Machine
end

section
/-! The bit-depth converter (42 R190 to R206): a band of an operation that keeps the layout is one function from element
to element, and each obligation says which. What the descriptor settles of such a job, its depth, its element sizes and
its layout, is read off the checks of START. -/

namespace Sys2Proof

/-! ### Depths (30 R95) -/

theorem Depth.ofBits_bits (n : Depth) : Depth.ofBits n.bits = some n := by
  cases n <;> rfl

theorem Depth.bits_of_ofBits {b : Nat} {n : Depth} (h : Depth.ofBits b = some n) : n.bits = b := by
  unfold Depth.ofBits at h
  split at h <;> cases h <;> rfl

theorem Depth.bits_bounds (n : Depth) : 8 ≤ n.bits ∧ n.bits ≤ 16 := by
  cases n <;> decide

end Sys2Proof

namespace Sys2Proof.Machine

/-! ### A band as one step (44 R251) -/

section
variable {i : Instr} {s : State} {job : Job}

theorem finishBand_frame (hb : s.busy = true) (m : Memory) : BandFrame job s (finishBand job { s with mem := m }) := by
  unfold finishBand
  split
  · rename_i hlast
    exact ⟨rfl, fun _ => ⟨rfl, rfl⟩, fun h => absurd hlast h, rfl, rfl, rfl, rfl, rfl, rfl, rfl, rfl, rfl, rfl, rfl⟩
  · rename_i hlast
    exact ⟨rfl, fun h => absurd h hlast, fun _ => ⟨hb, rfl⟩, rfl, rfl, rfl, rfl, rfl, rfl, rfl, rfl, rfl, rfl, rfl⟩

/-- A band of any instruction answers a next state with the registers after a band, and writes its elements alone. -/
theorem exec_band_frame (h : Running i s job) :
    ∃ t, exec i s = .next t ∧ SameOutside (job.bandElems s.rowPos.toNat) s.mem t.mem ∧ BandFrame job s t := by
  obtain ⟨hbusy, hres, hrow, htaint, hwf⟩ := h
  refine ⟨_, exec_eq_band hbusy hres hrow, fun a ha => ?_, ?_⟩
  · rw [finishBand_mem, (writeBand_mem htaint).1]
    refine getByte_applyStores_outside hwf fun st hst => ha st.elem ?_
    rw [← bandOf_elems (kind_of_resolve hres) s.mem s.rowPos.toNat]
    exact List.mem_map_of_mem hst
  · rw [writeBand, htaint]
    exact finishBand_frame hbusy _

end

/-! ### Element by element (42 R190, 44 R254) -/

theorem Px.get_map (f : Nat → Nat) (px : Px) (c : Chan) : (px.map f).get c = f (px.get c) := by
  cases c <;> rfl

/-- The store of channel `k` of the layout's name is to element `k` of the pixel (43 R223). -/
theorem SurfRef.mem_pack {p : SurfRef} (hp : p.surf ≠ .rgba1010102) {k : Nat} {c : Chan}
    (hk : p.surf.channels[k]? = some c) (x y : Nat) (px : Px) : ⟨p.elem x y k, px.get c⟩ ∈ p.pack x y px := by
  rw [SurfRef.pack, if_neg hp]
  exact List.mem_map.2 ⟨(c, k), List.mem_zipIdx_iff_getElem?.2 hk, rfl⟩

/-- The operations that keep the layout and work element by element (60 R296). -/
def JobKind.keepsLayout : JobKind → Bool
  | .widen => true
  | .narrow => true
  | .u2h => true
  | .h2u => true
  | .enc => false
  | .dec => false
  | .perm => false

section
variable {i : Instr} {c : Config} {d : Desc} {job : Job}

/-- What E_UNSUP leaves of these operations: one layout on both sides, not the packed one, and no depth 8 where the
depth changes. -/
theorem sameLayout_of_resolve (hk : i.kind.keepsLayout = true) (h : resolve i c d = .ok job) :
    (job.surfB = job.surfA ∧ job.surfA ≠ .rgba1010102) ∧ (i.kind = .widen ∨ i.kind = .narrow → job.depth ≠ .d8) := by
  obtain ⟨f, n, -, -, -, -, hfmt, rfl⟩ := decodeJob_eq_ok (resolve_eq_ok.1 h).1
  change (f.surfB.getD f.surfA = f.surfA ∧ f.surfA ≠ .rgba1010102) ∧ (_ → n ≠ .d8)
  generalize i.kind = k at hk hfmt
  cases k with
  | enc => cases hk
  | dec => cases hk
  | perm => cases hk
  | _ => simpa [fmtUnsupported, and_comm] using hfmt

theorem depth_of_fixed {n : Depth} (hn : i.fixedDepth = some n) (h : resolve i c d = .ok job) : job.depth = n := by
  obtain ⟨f, m, -, -, hdepth, -, -, rfl⟩ := decodeJob_eq_ok (resolve_eq_ok.1 h).1
  rw [effectiveDepth, hn] at hdepth
  exact (Option.some.inj hdepth).symm

/-- 30 R95: without a fixed depth the job takes its depth from FMT.BITS. -/
theorem depth_of_dynamic (hn : i.fixedDepth = none) (h : resolve i c d = .ok job) :
    job.depth.bits = field d.fmt 8 5 := by
  obtain ⟨f, m, hfmt, -, hdepth, -, -, rfl⟩ := decodeJob_eq_ok (resolve_eq_ok.1 h).1
  obtain ⟨-, -, hbits, -⟩ := decodeFmt_eq_ok_iff.1 hfmt
  rw [effectiveDepth, hn] at hdepth
  exact (Depth.bits_of_ofBits hdepth).trans hbits.symm

theorem rnd_of_resolve (h : resolve i c d = .ok job) : job.rnd = c.narrowRnd := by
  obtain ⟨f, n, -, -, -, -, -, rfl⟩ := decodeJob_eq_ok (resolve_eq_ok.1 h).1
  rfl

end

/-! The element sizes of these operations (60 R295). -/

theorem Job.widen_sizes {job : Job} (hk : job.kind = .widen) : job.esA = 1 ∧ job.esB = 2 := by
  rw [Job.esA, Job.esB, hk]
  exact ⟨rfl, rfl⟩

theorem Job.narrow_sizes {job : Job} (hk : job.kind = .narrow) : job.esA = 2 ∧ job.esB = 1 := by
  rw [Job.esA, Job.esB, hk]
  exact ⟨rfl, rfl⟩

theorem Job.u2h_sizes {job : Job} (hk : job.kind = .u2h) : job.esA = job.depth.es ∧ job.esB = 2 := by
  rw [Job.esA, Job.esB, hk]
  exact ⟨rfl, rfl⟩

theorem Job.h2u_sizes {job : Job} (hk : job.kind = .h2u) : job.esA = 2 ∧ job.esB = job.depth.es := by
  rw [Job.esA, Job.esB, hk]
  exact ⟨rfl, rfl⟩

/-- Each element of the band's row of surface B holds the function of the element of surface A, cut to the bytes of an
element of B. -/
theorem element_after_band {i : Instr} {g : Job → Nat → Nat} {s t : State} {job : Job}
    (hk : i.kind.keepsLayout = true) (hband : bandOf i = rowBand fun job px => px.map (g job)) (h : Running i s job)
    (he : exec i s = .next t) {x k : Nat} (hx : x < job.w) (hcount : k < job.surfA.count) :
    t.mem.sample (job.refB.elem x s.rowPos.toNat k) =
      g job (s.mem.sample (job.refA.elem x s.rowPos.toNat k)) % 256 ^ job.esB := by
  have ⟨_, hres, _⟩ := h
  obtain ⟨⟨hlayout, hunpacked⟩, -⟩ := sameLayout_of_resolve hk hres
  have hA : job.refA.surf.channels[k]? = some job.surfA.channels[k] := List.getElem?_eq_getElem hcount
  have hB : job.refB.surf.channels[k]? = some job.surfA.channels[k] := by
    rw [← hA]
    exact congrArg (·.channels[k]?) hlayout
  have hst : ⟨job.refB.elem x s.rowPos.toNat k, g job (s.mem.sample (job.refA.elem x s.rowPos.toNat k))⟩ ∈
      bandOf i job s.mem s.rowPos.toNat := by
    rw [hband]
    refine List.mem_flatMap.2 ⟨x, List.mem_range.2 hx, ?_⟩
    have hmem := SurfRef.mem_pack (hlayout.trans_ne hunpacked) hB x s.rowPos.toNat
      ((job.refA.unpack s.mem x s.rowPos.toNat).map (g job))
    rwa [Px.get_map, SurfRef.get_unpack hunpacked, SurfRef.readChan_of_channel hA] at hmem
  exact sample_after_band h he hst

/-- An operation that keeps the layout is its function on every element, where the results fit an element of B. -/
theorem elementwiseBand_of_map {i : Instr} {g f : Job → Nat → Nat} (hk : i.kind.keepsLayout = true)
    (hband : bandOf i = rowBand fun job px => px.map (g job))
    (hval : ∀ (c : Config) (d : Desc) (job : Job) (v : Nat), resolve i c d = .ok job → v < 256 ^ job.esA →
      g job v = f job v ∧ g job v < 256 ^ job.esB) : ElementwiseBand i f := by
  intro s job h
  have ⟨_, hres, _⟩ := h
  obtain ⟨t, he, hout, hframe⟩ := exec_band_frame h
  refine ⟨t, he, fun x k hx hcount => ?_, hout, hframe⟩
  obtain ⟨hf, hlt⟩ := hval _ _ job (s.mem.sample (job.refA.elem x s.rowPos.toNat k)) hres (read_lt _ _ _)
  rw [element_after_band hk hband h he hx hcount, Nat.mod_eq_of_lt hlt, hf]

/-! ### E_BITS (60 R301) -/

theorem firstOf_ne_some {l : List (Option Refused)} {r : Refused} (h : ∀ o ∈ l, o ≠ some r) : firstOf l ≠ some r :=
  fun hr => h _ (firstOf_eq_some hr) rfl

theorem firstOf_planes_ne_some {check : Plane → Option Refused} {r : Refused} (h : ∀ p, check p ≠ some r)
    (ps : List Plane) : firstOf (ps.map check) ≠ some r :=
  firstOf_ne_some fun _ ho => by
    obtain ⟨p, -, rfl⟩ := List.mem_map.1 ho
    exact h p

section
variable {r : Reg}

theorem ite_ne_bits {b : Prop} [Decidable b] {code : ErrCode} {q : Reg} {o : Option Refused} (h : code ≠ .bits)
    (ho : o ≠ some ⟨.bits, r⟩) : (if b then some ⟨code, q⟩ else o) ≠ some ⟨.bits, r⟩ := by
  split
  · rintro ⟨⟩
    exact h rfl
  · exact ho

/-- The checks of START after those of the encoding give no E_BITS. -/
theorem checkJob_ne_bits (c : Config) (job : Job) : checkJob c job ≠ some ⟨.bits, r⟩ := by
  have hnone : (none : Option Refused) ≠ some ⟨.bits, r⟩ := nofun
  refine firstOf_ne_some ?_
  simp only [List.forall_mem_cons, List.not_mem_nil, false_imp_iff, implies_true, and_true]
  exact ⟨ite_ne_bits (by decide) (ite_ne_bits (by decide) hnone),
    firstOf_planes_ne_some (fun _ => ite_ne_bits (by decide) hnone) _,
    firstOf_planes_ne_some (fun _ => ite_ne_bits (by decide) (ite_ne_bits (by decide) hnone)) _,
    firstOf_planes_ne_some (fun _ => ite_ne_bits (by decide) hnone) _,
    firstOf_planes_ne_some (fun _ => ite_ne_bits (by decide) hnone) _,
    firstOf_planes_ne_some (fun _ => ite_ne_bits (by decide) hnone) _⟩

/-- The one E_BITS of the encoding checks is for a depth in FMT, which a fixed variant does not read. -/
theorem decodeJob_ne_bits {i : Instr} {n : Depth} (hn : i.fixedDepth = some n) (c : Config) (d : Desc) :
    decodeJob i c d ≠ .error ⟨.bits, r⟩ := by
  unfold decodeJob
  cases decodeFmt d.fmt with
  | error e => simp
  | ok f =>
    have hdepth : effectiveDepth i f = some n := by rw [effectiveDepth, hn]
    simp only [hdepth]
    split_ifs <;> simp

/-- 60 R301: a fixed variant is never refused for its depth. -/
theorem resolve_ne_bits {i : Instr} {n : Depth} (hn : i.fixedDepth = some n) (c : Config) (d : Desc) (r : Reg) :
    resolve i c d ≠ .error ⟨.bits, r⟩ := by
  intro h
  unfold resolve at h
  cases hj : decodeJob i c d with
  | error q =>
    rw [hj] at h
    exact decodeJob_ne_bits hn c d (hj.trans h)
  | ok job =>
    rw [hj] at h
    cases hc : checkJob c job with
    | none => simp [hc] at h
    | some q =>
      simp only [hc, Except.error.injEq] at h
      exact checkJob_ne_bits c job (h ▸ hc)

end

end Sys2Proof.Machine
end

section
/-! WIDEN and NARROW (42 R191 to R202): the two functions as sums and quotients, the bands of the eight jobs, and the
agreement of each fixed variant with the dynamic one. -/

namespace Sys2Proof.Machine

/-! ### The two functions -/

/-- Bit replication as a sum: the high bits of `v` go below its shifted copy (42 R191). -/
theorem widen_eq {v n : Nat} (hv : v < 256) (h8 : 8 ≤ n) (h16 : n ≤ 16) :
    widen v n = v * 2 ^ (n - 8) + v / 2 ^ (16 - n) := by
  have hlow : v >>> (16 - n) < 2 ^ (n - 8) := by
    rw [Nat.shiftRight_eq_div_pow, Nat.div_lt_iff_lt_mul (Nat.two_pow_pos _), ← Nat.pow_add]
    rwa [show n - 8 + (16 - n) = 8 by omega]
  rw [widen, ← Nat.shiftLeft_add_eq_or_of_lt hlow, Nat.shiftLeft_eq, Nat.shiftRight_eq_div_pow]

theorem widen_lt {v n : Nat} (hv : v < 256) (h8 : 8 ≤ n) (h16 : n ≤ 16) : widen v n < 65536 := by
  have hleft : v <<< (n - 8) < 2 ^ 16 := by
    rw [Nat.shiftLeft_eq]
    calc v * 2 ^ (n - 8) < 2 ^ 8 * 2 ^ (n - 8) := Nat.mul_lt_mul_of_pos_right hv (Nat.two_pow_pos _)
      _ = 2 ^ n := by rw [← Nat.pow_add, Nat.add_sub_cancel' h8]
      _ ≤ 2 ^ 16 := Nat.pow_le_pow_right (by decide) h16
  have hright : v >>> (16 - n) < 2 ^ 16 := (Nat.shiftRight_le v _).trans_lt (by omega)
  exact Nat.or_lt_two_pow hleft hright

theorem narrow_halfUp (v n : Nat) : narrow .halfUp v n = min ((v + 2 ^ (n - 9)) / 2 ^ (n - 8)) 255 := by
  simp only [narrow, Nat.shiftRight_eq_div_pow, Nat.sub_sub]

theorem narrow_trunc (v n : Nat) : narrow .trunc v n = min (v / 2 ^ (n - 8)) 255 := by
  simp only [narrow, Nat.shiftRight_eq_div_pow]

/-- Both rounding modes (42 R196). -/
theorem narrow_eq (rm : NarrowRnd) (v n : Nat) :
    narrow rm v n =
      match rm with
      | .halfUp => min ((v + 2 ^ (n - 9)) / 2 ^ (n - 8)) 255
      | .trunc => min (v / 2 ^ (n - 8)) 255 := by
  cases rm with
  | halfUp => exact narrow_halfUp v n
  | trunc => exact narrow_trunc v n

theorem narrow_lt (rm : NarrowRnd) (v n : Nat) : narrow rm v n < 256 := by
  cases rm with
  | halfUp => rw [narrow_halfUp]; omega
  | trunc => rw [narrow_trunc]; omega

/-- 42 R202: narrowing undoes widening, up to one step of the rounding. -/
theorem narrow_widen {v n : Nat} (hv : v < 256) (hn : n = 10 ∨ n = 12 ∨ n = 16) :
    narrow .trunc (widen v n) n = v ∧
    narrow .halfUp (widen v n) n = if 128 ≤ v ∧ v ≤ 254 then v + 1 else v := by
  rw [widen_eq hv (by omega) (by omega), narrow_trunc, narrow_halfUp]
  obtain rfl | rfl | rfl := hn <;> simp only [Nat.reduceSub, Nat.reducePow] <;> split <;> omega

/-! ### The bands -/

/-- A claim about the elements of a band may use what the descriptor settles of the job. -/
theorem ElementwiseBand.congr {i : Instr} {f g : Job → Nat → Nat} (h : ElementwiseBand i f)
    (hfg : ∀ (c : Config) (d : Desc) (job : Job), resolve i c d = .ok job → f job = g job) : ElementwiseBand i g := by
  intro s job hrun
  have ⟨_, hres, _⟩ := hrun
  rw [← hfg _ _ job hres]
  exact h s job hrun

section
variable {i : Instr} {n : Depth}

theorem widen_elementwise (hk : i.kind = .widen) (hband : bandOf i = widenBand) :
    ElementwiseBand i fun job v => v * 2 ^ (job.depth.bits - 8) + v / 2 ^ (16 - job.depth.bits) := by
  refine elementwiseBand_of_map (by rw [hk]; rfl) hband fun c d job v h hv => ?_
  obtain ⟨hA, hB⟩ := Job.widen_sizes ((kind_of_resolve h).trans hk)
  obtain ⟨h8, h16⟩ := Depth.bits_bounds job.depth
  rw [hA] at hv
  rw [hB]
  exact ⟨widen_eq hv h8 h16, widen_lt hv h8 h16⟩

theorem widen_elementwise_fixed (hk : i.kind = .widen) (hband : bandOf i = widenBand) (hn : i.fixedDepth = some n) :
    ElementwiseBand i fun _ v => v * 2 ^ (n.bits - 8) + v / 2 ^ (16 - n.bits) :=
  (widen_elementwise hk hband).congr fun _ _ _ h => by rw [depth_of_fixed hn h]

theorem narrow_elementwise (hk : i.kind = .narrow) (hband : bandOf i = narrowBand) :
    ElementwiseBand i fun job v => narrow job.rnd v job.depth.bits := by
  refine elementwiseBand_of_map (by rw [hk]; rfl) hband fun c d job v h _ => ?_
  obtain ⟨-, hB⟩ := Job.narrow_sizes ((kind_of_resolve h).trans hk)
  rw [hB]
  exact ⟨rfl, narrow_lt _ _ _⟩

theorem narrow_elementwise_fixed (hk : i.kind = .narrow) (hband : bandOf i = narrowBand) (hn : i.fixedDepth = some n) :
    ElementwiseBand i fun job v => narrow job.rnd v n.bits :=
  (narrow_elementwise hk hband).congr fun _ _ _ h => by rw [depth_of_fixed hn h]

/-- What the descriptor settles of a fixed WIDEN. -/
theorem widen_fixed_facts (hk : i.kind = .widen) (hn : i.fixedDepth = some n) {c : Config} {d : Desc} {job : Job}
    (h : resolve i c d = .ok job) : job.depth.bits = n.bits ∧ job.esA = 1 ∧ job.esB = 2 :=
  ⟨congrArg Depth.bits (depth_of_fixed hn h), Job.widen_sizes ((kind_of_resolve h).trans hk)⟩

/-- What the descriptor settles of a fixed NARROW. -/
theorem narrow_fixed_facts (hk : i.kind = .narrow) (hn : i.fixedDepth = some n) {c : Config} {d : Desc} {job : Job}
    (h : resolve i c d = .ok job) : job.rnd = c.narrowRnd ∧ job.depth.bits = n.bits ∧ job.esA = 2 ∧ job.esB = 1 :=
  ⟨rnd_of_resolve h, congrArg Depth.bits (depth_of_fixed hn h), Job.narrow_sizes ((kind_of_resolve h).trans hk)⟩

end

/-! ### The statements about WIDEN and NARROW -/

/-- Settles O30: bit replication as a sum on every element, the depth read off FMT. -/
theorem widenDynamicReplicatesBits : Obligations.WidenDynamicReplicatesBits :=
  ⟨widen_elementwise rfl rfl, fun _ _ _ h =>
    ⟨depth_of_dynamic rfl h, (sameLayout_of_resolve rfl h).2 (.inl rfl), Job.widen_sizes (kind_of_resolve h)⟩⟩

/-- Settles O31: the sum at the depth of the opcode word. -/
theorem widenTenReplicatesBits : Obligations.WidenTenReplicatesBits :=
  ⟨decode_encode (i := .widen10) rfl, widen_elementwise_fixed (n := .d10) rfl rfl rfl,
    fun _ _ _ => widen_fixed_facts (n := .d10) rfl rfl, resolve_ne_bits (n := .d10) rfl⟩

/-- Settles O32: the sum at the depth of the opcode word. -/
theorem widenTwelveReplicatesBits : Obligations.WidenTwelveReplicatesBits :=
  ⟨decode_encode (i := .widen12) rfl, widen_elementwise_fixed (n := .d12) rfl rfl rfl,
    fun _ _ _ => widen_fixed_facts (n := .d12) rfl rfl, resolve_ne_bits (n := .d12) rfl⟩

/-- Settles O33: at 16 bits the sum is `v * 256 + v`. -/
theorem widenSixteenReplicatesBits : Obligations.WidenSixteenReplicatesBits := by
  refine ⟨decode_encode (i := .widen16) rfl, ?_, fun _ _ _ => widen_fixed_facts (n := .d16) rfl rfl,
    resolve_ne_bits (n := .d16) rfl⟩
  refine (widen_elementwise_fixed (n := .d16) rfl rfl rfl).congr fun _ _ _ _ => funext fun v => ?_
  simp only [Depth.bits, Nat.reduceSub, Nat.reducePow]
  omega

/-- Settles O34: the rounding of either mode on every element, the depth read off FMT. -/
theorem narrowDynamicRoundsAndSaturates : Obligations.NarrowDynamicRoundsAndSaturates :=
  ⟨(narrow_elementwise rfl rfl).congr fun _ _ job _ => funext fun v => narrow_eq job.rnd v job.depth.bits,
    fun _ _ _ h => ⟨rnd_of_resolve h, depth_of_dynamic rfl h, (sameLayout_of_resolve rfl h).2 (.inr rfl),
      Job.narrow_sizes (kind_of_resolve h)⟩⟩

/-- Settles O35: the rounding of either mode at the depth of the opcode word. -/
theorem narrowTenRoundsAndSaturates : Obligations.NarrowTenRoundsAndSaturates :=
  ⟨decode_encode (i := .narrow10) rfl,
    (narrow_elementwise_fixed (n := .d10) rfl rfl rfl).congr fun _ _ job _ => funext fun v => narrow_eq job.rnd v 10,
    fun _ _ _ => narrow_fixed_facts (n := .d10) rfl rfl, resolve_ne_bits (n := .d10) rfl⟩

/-- Settles O36: the rounding of either mode at the depth of the opcode word. -/
theorem narrowTwelveRoundsAndSaturates : Obligations.NarrowTwelveRoundsAndSaturates :=
  ⟨decode_encode (i := .narrow12) rfl,
    (narrow_elementwise_fixed (n := .d12) rfl rfl rfl).congr fun _ _ job _ => funext fun v => narrow_eq job.rnd v 12,
    fun _ _ _ => narrow_fixed_facts (n := .d12) rfl rfl, resolve_ne_bits (n := .d12) rfl⟩

/-- Settles O37: the rounding of either mode at the depth of the opcode word. -/
theorem narrowSixteenRoundsAndSaturates : Obligations.NarrowSixteenRoundsAndSaturates :=
  ⟨decode_encode (i := .narrow16) rfl,
    (narrow_elementwise_fixed (n := .d16) rfl rfl rfl).congr fun _ _ job _ => funext fun v => narrow_eq job.rnd v 16,
    fun _ _ _ => narrow_fixed_facts (n := .d16) rfl rfl, resolve_ne_bits (n := .d16) rfl⟩

/-! ### Fixed and dynamic variants (42 R201) -/

section
variable {i j : Instr}

/-- Two jobs of one operation resolve alike where their CTRL fields and depths agree. -/
theorem resolve_congr {c : Config} {d : Desc} (hk : i.kind = j.kind) (hrange : i.range = j.range)
    (hctrl : i.ctrlUnsupported = j.ctrlUnsupported)
    (hdepth : ∀ f, decodeFmt d.fmt = .ok f → effectiveDepth i f = effectiveDepth j f) :
    resolve i c d = resolve j c d := by
  have hjob : decodeJob i c d = decodeJob j c d := by
    unfold decodeJob
    cases hf : decodeFmt d.fmt with
    | error e => rfl
    | ok f => simp only [hk, hctrl, hdepth f hf, makeJob, hrange]
  rw [resolve, resolve, hjob]

theorem exec_congr {s : State} (hband : bandOf i = bandOf j) (h : resolve i s.cfg s.desc = resolve j s.cfg s.desc) :
    exec i s = exec j s := by
  rw [exec_eq_runJob, exec_eq_runJob, hband, runJob, runJob, bandStep, bandStep, launch, launch, h]

/-- A variant that takes its depth from FMT.BITS does what the variant fixed at that depth does. -/
theorem exec_dynamic_eq_fixed {n : Depth} {s : State} (hdyn : i.fixedDepth = none) (hfix : j.fixedDepth = some n)
    (hband : bandOf i = bandOf j) (hk : i.kind = j.kind) (hrange : i.range = j.range)
    (hctrl : i.ctrlUnsupported = j.ctrlUnsupported) (hbits : field s.desc.fmt 8 5 = n.bits) : exec i s = exec j s := by
  refine exec_congr hband (resolve_congr hk hrange hctrl fun f hf => ?_)
  obtain ⟨-, -, hfield, -⟩ := decodeFmt_eq_ok_iff.1 hf
  rw [effectiveDepth, effectiveDepth, hdyn, hfix, ← hfield, hbits]
  exact n.ofBits_bits

end

/-- Settles O54: in each of the six pairs the two differ in where the depth comes from. -/
theorem fixedAndDynamicVariantsAgree : Obligations.FixedAndDynamicVariantsAgree := fun _ =>
  ⟨fun h => ⟨exec_dynamic_eq_fixed (n := .d10) rfl rfl rfl rfl rfl rfl h,
      exec_dynamic_eq_fixed (n := .d10) rfl rfl rfl rfl rfl rfl h⟩,
    fun h => ⟨exec_dynamic_eq_fixed (n := .d12) rfl rfl rfl rfl rfl rfl h,
      exec_dynamic_eq_fixed (n := .d12) rfl rfl rfl rfl rfl rfl h⟩,
    fun h => ⟨exec_dynamic_eq_fixed (n := .d16) rfl rfl rfl rfl rfl rfl h,
      exec_dynamic_eq_fixed (n := .d16) rfl rfl rfl rfl rfl rfl h⟩⟩

end Sys2Proof.Machine
end

section
/-! Rounding to binary16 (42 R203 to R207). A pattern below infinity is a significand at a scale, `e * 1024 + r` with
magnitude `r * 2^(e+1)`: this holds of subnormals, of normal numbers, and of a significand that rounding has carried to
2048. `rne16` is the nearest multiple of one scale, and every finite pattern is a multiple of that scale or below its
least normal significand. -/

namespace Sys2Proof.Machine

/-! ### The nearest integer to a quotient, ties to even -/

section
variable {p d : Nat}

/-- The rounded quotient by quotient and remainder. -/
theorem roundHalfEven_cases (hd : 0 < d) (p : Nat) :
    ∃ q m, p = q * d + m ∧ m < d ∧
      (roundHalfEven p d = q ∧ (2 * m < d ∨ 2 * m = d ∧ q % 2 = 0) ∨
        roundHalfEven p d = q + 1 ∧ (d < 2 * m ∨ 2 * m = d ∧ (q + 1) % 2 = 0)) := by
  refine ⟨p / d, p % d, (Nat.div_add_mod' p d).symm, Nat.mod_lt p hd, ?_⟩
  unfold roundHalfEven
  split_ifs <;> omega

theorem le_roundHalfEven (hd : 0 < d) {k : Nat} (h : k * d ≤ p) : k ≤ roundHalfEven p d := by
  obtain ⟨q, m, rfl, hm, hr⟩ := roundHalfEven_cases hd p
  have hlt : k * d < (q + 1) * d := by rw [Nat.add_one_mul]; omega
  have hk : k < q + 1 := Nat.lt_of_mul_lt_mul_right hlt
  omega

theorem roundHalfEven_le (hd : 0 < d) {k : Nat} (h : p ≤ k * d) : roundHalfEven p d ≤ k := by
  obtain ⟨q, m, rfl, hm, hr⟩ := roundHalfEven_cases hd p
  have hq : q ≤ k := Nat.le_of_mul_le_mul_right (show q * d ≤ k * d by omega) hd
  obtain rfl | hlt := hq.eq_or_lt <;> omega

/-- The rounded quotient is off by half a unit at most, and is even where it is off by just that. -/
theorem roundHalfEven_error (hd : 0 < d) (p : Nat) :
    2 * ((roundHalfEven p d * d : Int) - p).natAbs ≤ d ∧
    (2 * ((roundHalfEven p d * d : Int) - p).natAbs = d → roundHalfEven p d % 2 = 0) := by
  obtain ⟨q, m, rfl, hm, ⟨hr, hhalf⟩ | ⟨hr, hhalf⟩⟩ := roundHalfEven_cases hd p <;> rw [hr] <;>
    push_cast [Int.add_mul] <;> omega

/-- No integer is nearer to the quotient, and where another is as near, the rounded one is even (42 R205). -/
theorem roundHalfEven_nearest (hd : 0 < d) (p k : Nat) :
    ((roundHalfEven p d * d : Int) - p).natAbs ≤ ((k * d : Int) - p).natAbs ∧
    (((roundHalfEven p d * d : Int) - p).natAbs = ((k * d : Int) - p).natAbs → k ≠ roundHalfEven p d →
      roundHalfEven p d % 2 = 0) := by
  obtain ⟨hhalf, htie⟩ := roundHalfEven_error hd p
  generalize roundHalfEven p d = r at *
  obtain rfl | hne := eq_or_ne k r
  · exact ⟨le_rfl, fun _ h => absurd rfl h⟩
  · have hunit : k * d + d ≤ r * d ∨ r * d + d ≤ k * d := by
      simp only [← Nat.add_one_mul]
      exact hne.lt_or_gt.imp (Nat.mul_le_mul_right d) (Nat.mul_le_mul_right d)
    zify at hunit
    omega

end

/-! ### Patterns as significands at a scale (42 R203) -/

theorem halfMagnitude_of_fields {e f : Nat} (he : e < 32) (hf : f < 1024) :
    halfMagnitude (e * 1024 + f) = if e = 0 then f * 2 else (1024 + f) * 2 ^ e := by
  have hexp : halfExp (e * 1024 + f) = e := by unfold halfExp; omega
  have hfrac : halfFrac (e * 1024 + f) = f := by unfold halfFrac; omega
  rw [halfMagnitude, hexp, hfrac]

/-- A significand at a scale: normal, or below it at the least scale, or carried to the next one. -/
theorem halfMagnitude_scaled {e r : Nat} (he : e < 30) (hr : r ≤ 2048) (hnormal : e = 0 ∨ 1024 ≤ r) :
    halfMagnitude (e * 1024 + r) = r * 2 ^ (e + 1) := by
  obtain hsub | ⟨f, hf, rfl⟩ | rfl : r < 1024 ∨ (∃ f < 1024, r = 1024 + f) ∨ r = 2048 := by
    obtain h | h | h : r < 1024 ∨ r - 1024 < 1024 ∧ r = 1024 + (r - 1024) ∨ r = 2048 := by omega
    · exact .inl h
    · exact .inr (.inl ⟨_, h⟩)
    · exact .inr (.inr h)
  · obtain rfl : e = 0 := by omega
    exact halfMagnitude_of_fields (by decide) hsub
  · rw [← Nat.add_assoc, ← Nat.add_one_mul, halfMagnitude_of_fields (by omega) hf, if_neg e.succ_ne_zero]
  · rw [show e * 1024 + 2048 = (e + 2) * 1024 + 0 by omega, halfMagnitude_of_fields (by omega) (by decide),
      if_neg (by omega), Nat.pow_succ' (n := e + 1), ← Nat.mul_assoc]

/-- Every finite non-negative pattern is a significand at a scale. -/
theorem exists_scale {h : Nat} (hfin : h < 0x7C00) :
    ∃ e r, h = e * 1024 + r ∧ e < 30 ∧ r < 2048 ∧ (e = 0 ∨ 1024 ≤ r) := by
  by_cases hsub : h < 1024
  · exact ⟨0, h, by omega⟩
  · exact ⟨h / 1024 - 1, h % 1024 + 1024, by omega⟩

/-! ### The rounded pattern -/

/-- A significand that rounds up to 2048 is the least one of the next scale: the two branches of `rne16` agree. -/
theorem carried_significand {e r : Nat} (hr : 1024 ≤ r) :
    (if r = 2048 then (e + 2) * 1024 else (e + 1) * 1024 + (r - 1024)) = e * 1024 + r := by
  split <;> omega

section
variable {p d : Nat} (hd : 0 < d)
include hd

/-- The largest power of two that, times `d`, is not above `q`. -/
theorem log2_scale {q : Nat} (h : d ≤ q) :
    d * 2 ^ Nat.log2 (q / d) ≤ q ∧ q < 2 * (d * 2 ^ Nat.log2 (q / d)) := by
  have hne : q / d ≠ 0 := (Nat.div_pos h hd).ne'
  constructor
  · rw [Nat.mul_comm, ← Nat.le_div_iff_mul_le hd]
    exact Nat.log2_self_le hne
  · rw [Nat.mul_left_comm, ← Nat.pow_succ', Nat.mul_comm d, ← Nat.div_lt_iff_lt_mul hd]
    exact Nat.lt_log2_self

/-- The pattern of `rne16` is the quotient rounded at a scale where it is normal, or at the least scale (42 R205). -/
theorem rne16_eq_scaled {p q : Nat} (hq : p * 2 ^ 24 = q) :
    ∃ e, rne16 p d = e * 1024 + roundHalfEven q (d * 2 ^ e) ∧ (e = 0 ∨ 1024 * (d * 2 ^ e) ≤ q) ∧
      q < 2048 * (d * 2 ^ e) := by
  unfold rne16
  rw [hq]
  split
  · rename_i hsub
    exact ⟨0, by rw [Nat.pow_zero, Nat.mul_one, Nat.zero_mul, Nat.zero_add], .inl rfl, by omega⟩
  · rename_i hnormal
    obtain ⟨hlow, hhigh⟩ := log2_scale hd (not_lt.1 hnormal)
    generalize Nat.log2 (p * 2 ^ 14 / d) = e at *
    have hlow' : 1024 * (d * 2 ^ e) ≤ q := by omega
    have hhigh' : q < 2048 * (d * 2 ^ e) := by omega
    exact ⟨e, carried_significand (le_roundHalfEven (Nat.mul_pos hd (Nat.two_pow_pos e)) hlow'), .inr hlow', hhigh'⟩

/-- Up to the largest finite value, significand 2047 at scale 29, the pattern is finite, and its significand is one of
its scale. -/
theorem rne16_scaled_bounds {e q : Nat} (htop : q ≤ 2047 * (d * 2 ^ 29)) (hlow : e = 0 ∨ 1024 * (d * 2 ^ e) ≤ q)
    (hhigh : q < 2048 * (d * 2 ^ e)) :
    e * 1024 + roundHalfEven q (d * 2 ^ e) < 0x7C00 ∧ e < 30 ∧ roundHalfEven q (d * 2 ^ e) ≤ 2048 ∧
      (e = 0 ∨ 1024 ≤ roundHalfEven q (d * 2 ^ e)) := by
  have hunit : 0 < d * 2 ^ e := Nat.mul_pos hd (Nat.two_pow_pos e)
  have hscale : e < 30 := by
    by_contra h
    have := Nat.mul_le_mul_left d (Nat.pow_le_pow_right (n := 2) (by decide) (not_lt.1 h))
    omega
  have hle := roundHalfEven_le hunit hhigh.le
  refine ⟨?_, hscale, hle, hlow.imp id (le_roundHalfEven hunit)⟩
  obtain hlt | rfl : e < 29 ∨ e = 29 := by omega
  · omega
  · have := roundHalfEven_le hunit htop
    omega

/-- The rounded pattern as a significand at a scale, up to the largest finite value. -/
theorem rne16_cases {p q : Nat} (hp : p ≤ 65504 * d) (hq : p * 2 ^ 24 = q) :
    ∃ e, rne16 p d = e * 1024 + roundHalfEven q (d * 2 ^ e) ∧ rne16 p d < 0x7C00 ∧
      halfMagnitude (rne16 p d) = roundHalfEven q (d * 2 ^ e) * 2 ^ (e + 1) ∧ (e = 0 ∨ 1024 * (d * 2 ^ e) ≤ q) := by
  obtain ⟨e, hpat, hlow, hhigh⟩ := rne16_eq_scaled hd hq
  obtain ⟨hfinite, he, hr, hnormal⟩ := rne16_scaled_bounds hd (by omega) hlow hhigh
  rw [hpat]
  exact ⟨e, rfl, hfinite, halfMagnitude_scaled he hr hnormal, hlow⟩

theorem rne16_lt {p : Nat} (hp : p ≤ 65504 * d) : rne16 p d < 0x7C00 := by
  obtain ⟨-, -, hfinite, -⟩ := rne16_cases hd hp rfl
  exact hfinite

end

/-- In units of `2^-25`, the distance of a multiple of the unit of scale `e` from a quotient is twice what it is in
units of `2^-24` at that scale. -/
theorem natAbs_scaled_sub {p q : Nat} (hq : p * 2 ^ 24 = q) (d e k : Nat) :
    (((k * 2 ^ (e + 1) : Nat) * d : Int) - p * 2 ^ 25).natAbs = 2 * ((k * (d * 2 ^ e : Nat) : Int) - q).natAbs := by
  have hscale : ((k * 2 ^ (e + 1) : Nat) * d : Int) - p * 2 ^ 25 = 2 * ((k * (d * 2 ^ e : Nat) : Int) - q) := by
    rw [← hq]
    push_cast
    ring
  rw [hscale, Int.natAbs_mul]
  rfl

/-- A pattern of no lower scale is a multiple of the unit of scale `e`; another such pattern with the same magnitude is
the same, or the multiple is even. -/
theorem scaled_multiple {e e' s : Nat} (h : e ≤ e') :
    ∃ k, s * 2 ^ (e' + 1) = k * 2 ^ (e + 1) ∧ (e' * 1024 + s = e * 1024 + k ∨ k % 2 = 0) := by
  obtain ⟨n, rfl⟩ := Nat.exists_eq_add_of_le h
  refine ⟨s * 2 ^ n, by ring, ?_⟩
  cases n with
  | zero => exact .inl (by simp)
  | succ n => exact .inr (by rw [Nat.pow_succ, ← Nat.mul_assoc, Nat.mul_mod_left])

/-- A pattern of a lower scale is below the least normal significand of scale `e`. -/
theorem scaled_lt {e e' s : Nat} (hs : s < 2048) (h : e' < e) : s * 2 ^ (e' + 1) < 1024 * 2 ^ (e + 1) :=
  calc s * 2 ^ (e' + 1) < 2048 * 2 ^ (e' + 1) := Nat.mul_lt_mul_of_pos_right hs (Nat.two_pow_pos _)
    _ = 1024 * 2 ^ (e' + 1 + 1) := by ring
    _ ≤ 1024 * 2 ^ (e + 1) := Nat.mul_le_mul_left _ (Nat.pow_le_pow_right (by decide) (by omega))

/-- Settles O41: at the scale of the rounded pattern the nearest multiple of the unit is nearest, and a pattern of a
lower scale is further off than the least normal significand. -/
theorem rneIsNearestEven : Obligations.RneIsNearestEven := by
  intro p d h hd hp hfin
  obtain ⟨q, hq⟩ : ∃ q, p * 2 ^ 24 = q := ⟨_, rfl⟩
  obtain ⟨e, hpat, hfinite, hmag, hlow⟩ := rne16_cases hd hp hq
  have hnearest := roundHalfEven_nearest (Nat.mul_pos hd (Nat.two_pow_pos e)) q
  obtain ⟨e', s, rfl, he', hs, hnormal⟩ := exists_scale hfin
  rw [hmag, halfMagnitude_scaled he' hs.le hnormal, natAbs_scaled_sub hq]
  rw [hpat] at hfinite ⊢
  generalize roundHalfEven q (d * 2 ^ e) = r at *
  refine ⟨hfinite, ?_⟩
  obtain hle | hlt := le_or_gt e e'
  · obtain ⟨k, hk, hsame⟩ := scaled_multiple (s := s) hle
    obtain ⟨hmin, htie⟩ := hnearest k
    rw [hk, natAbs_scaled_sub hq]
    omega
  · obtain ⟨hmin, -⟩ := hnearest 1024
    have hbelow : s * 2 ^ (e' + 1) * d < 2 * (1024 * (d * 2 ^ e)) :=
      (Nat.mul_lt_mul_of_pos_right (scaled_lt hs hlt) hd).trans_eq (by ring)
    have htwice : (p : Int) * 2 ^ 25 = 2 * (q : Int) := by
      rw [← hq]
      push_cast
      ring
    rw [htwice]
    generalize s * 2 ^ (e' + 1) = m at *
    generalize d * 2 ^ e = unit at *
    zify at hbelow hlow
    omega

end Sys2Proof.Machine
end

section
/-! U2H and H2U (42 R203 to R207): the bands, and the round trip at the depths where half a unit of the last place of a
binary16 value below 2 is less than half a step of the sample. -/

namespace Sys2Proof.Machine

/-- The scaled value of a finite pattern, rounded with ties up: in units of `2^-24` for a subnormal. -/
theorem roundedScale_eq (h m : Nat) :
    min ((halfMagnitude h * m + 2 ^ 24) / 2 ^ 25) m =
      if halfExp h = 0 then min ((halfFrac h * m + 2 ^ 23) / 2 ^ 24) m
      else min (((1024 + halfFrac h) * 2 ^ halfExp h * m + 2 ^ 24) / 2 ^ 25) m := by
  unfold halfMagnitude
  split
  · rw [Nat.mul_right_comm]
    congr 1
    omega
  · rfl

/-- The clauses of H2U by the fields of the pattern (42 R206). -/
theorem h2u_eq (h n : Nat) :
    h2u h n =
      if halfExp h = 31 ∧ halfFrac h ≠ 0 then 0
      else if halfSign h = 1 then 0
      else if halfExp h = 31 then maxv n
      else if halfExp h = 0 then min ((halfFrac h * maxv n + 2 ^ 23) / 2 ^ 24) (maxv n)
      else min (((1024 + halfFrac h) * 2 ^ halfExp h * maxv n + 2 ^ 24) / 2 ^ 25) (maxv n) := by
  rw [h2u, roundedScale_eq]

theorem h2u_le (h n : Nat) : h2u h n ≤ maxv n := by
  unfold h2u
  split_ifs <;> omega

/-- A sample of a depth fits its element (20 R64). -/
theorem maxv_lt_element (n : Depth) : maxv n.bits < 256 ^ n.es := by
  cases n <;> decide

/-- A stored element of a depth is far from the largest finite value in units of the depth's range. -/
theorem element_quotient_le {n : Depth} {v : Nat} (hv : v < 256 ^ n.es) : v ≤ 65504 * maxv n.bits := by
  have htop : 256 ^ n.es ≤ 65504 * maxv n.bits := by cases n <;> decide
  omega

theorem maxv_pos (n : Depth) : 0 < maxv n.bits := by
  cases n <;> decide

/-- Settles O39: the rounded pattern is finite, so it fits an element of 2 bytes. -/
theorem u2hRoundsTheQuotientOnce : Obligations.U2hRoundsTheQuotientOnce := by
  refine ⟨elementwiseBand_of_map (g := fun job v => u2h v job.depth.bits) rfl rfl fun _ _ job v h hv => ?_,
    fun _ _ _ h => ⟨depth_of_dynamic rfl h, Job.u2h_sizes (kind_of_resolve h)⟩⟩
  obtain ⟨hA, hB⟩ := Job.u2h_sizes (kind_of_resolve h)
  rw [hA] at hv
  rw [hB]
  exact ⟨rfl, (rne16_lt (maxv_pos _) (element_quotient_le hv)).trans (by decide)⟩

/-- Settles O40: the clauses of `h2u`, whose result is a sample of the depth, so it fits an element. -/
theorem h2uScalesAndSaturates : Obligations.H2uScalesAndSaturates := by
  refine ⟨elementwiseBand_of_map (g := fun job v => h2u v job.depth.bits) rfl rfl fun _ _ job v h _ =>
    ⟨h2u_eq v job.depth.bits, ?_⟩, fun _ _ _ h => ⟨depth_of_dynamic rfl h, Job.h2u_sizes (kind_of_resolve h)⟩⟩
  obtain ⟨-, hB⟩ := Job.h2u_sizes (kind_of_resolve h)
  rw [hB]
  exact (h2u_le v _).trans_lt (maxv_lt_element _)

/-! ### The round trip (42 R207) -/

/-- The rounded pattern of a quotient up to 1 is off by less than half a step of a sample, at 10 bits or fewer. -/
theorem u2h_error {v n : Nat} (hd : 0 < maxv n) (h10 : maxv n < 1024) (hv : v ≤ maxv n) :
    ((halfMagnitude (u2h v n) * maxv n : Int) - v * 2 ^ 25).natAbs < 2 ^ 24 := by
  unfold u2h
  generalize maxv n = d at *
  obtain ⟨q, hq⟩ : ∃ q, v * 2 ^ 24 = q := ⟨_, rfl⟩
  obtain ⟨e, -, -, hmag, hlow⟩ := rne16_cases hd (by omega) hq
  obtain ⟨herr, -⟩ := roundHalfEven_error (Nat.mul_pos hd (Nat.two_pow_pos e)) q
  have hunit : d * 2 ^ e < 2 ^ 24 := by
    obtain rfl | hlow := hlow <;> omega
  rw [hmag, natAbs_scaled_sub hq]
  omega

theorem h2u_u2h {v n : Nat} (hd : 0 < maxv n) (h10 : maxv n < 1024) (hv : v ≤ maxv n) : h2u (u2h v n) n = v := by
  have herr := u2h_error hd h10 hv
  have hfinite : u2h v n < 0x7C00 := rne16_lt hd (by omega)
  have hexp : halfExp (u2h v n) ≠ 31 := by unfold halfExp; omega
  have hsign : halfSign (u2h v n) ≠ 1 := by unfold halfSign; omega
  have hround : (halfMagnitude (u2h v n) * maxv n + 2 ^ 24) / 2 ^ 25 = v := by
    rw [← Nat.cast_mul] at herr
    generalize halfMagnitude (u2h v n) * maxv n = m at herr ⊢
    omega
  rw [h2u, if_neg fun hnan => hexp hnan.1, if_neg hsign, if_neg hexp, hround, Nat.min_eq_left hv]

/-- Settles O42: the sums and quotients of WIDEN and NARROW, and the error of U2H. -/
theorem bitDepthRoundTrips : Obligations.BitDepthRoundTrips :=
  ⟨fun _ hv _ hn => narrow_widen hv hn, fun _ hv => h2u_u2h (by decide) (by decide) (Nat.le_of_lt_succ hv),
    fun _ hv => h2u_u2h (by decide) (by decide) (Nat.le_of_lt_succ hv)⟩

end Sys2Proof.Machine
end

section
/-! PERM (43 R229, R230): what a channel of a surface can hold, what `unpack` gives back of a packed pixel and of a row
of format S, and that the pixel PERM writes fits where its destination is not packed. -/

namespace Sys2Proof

/-- Every layout but GRAY has the three colours, and alpha where it has one (43 R220). -/
theorem Surf.mem_channels {f : Surf} (hf : f ≠ .gray) (c : Chan) :
    c ∈ f.channels ↔ c ≠ .l ∧ (c = .a → f.hasAlpha = true) := by
  cases f with
  | gray => exact absurd rfl hf
  | _ => cases c <;> decide

end Sys2Proof

namespace Sys2Proof.Machine

/-! ### The packed word (43 R223, R224) -/

/-- The masks and shifts of the packed word as a sum: each field lies below the next one's shift. -/
theorem packWord_eq (px : Px) :
    packWord px = px.r % 1024 + px.g % 1024 * 2 ^ 10 + px.b % 1024 * 2 ^ 20 + px.a % 4 * 2 ^ 30 := by
  have hmask (v : Nat) : v &&& 0x3FF = v % 1024 := Nat.and_two_pow_sub_one_eq_mod v 10
  have halpha (v : Nat) : v &&& 3 = v % 4 := Nat.and_two_pow_sub_one_eq_mod v 2
  have hadd (k : Nat) {low v : Nat} (h : low < 2 ^ k) : low ||| v <<< k = low + v * 2 ^ k := by
    rw [Nat.or_comm, ← Nat.shiftLeft_add_eq_or_of_lt h, Nat.shiftLeft_eq, Nat.add_comm]
  rw [packWord, hmask, hmask, hmask, halpha, hadd 10 (by omega), hadd 20 (by omega), hadd 30 (by omega)]

theorem packWord_lt (px : Px) : packWord px < 2 ^ 32 := by
  rw [packWord_eq]
  omega

/-- The fields of a packed word are the channels cut to their widths. -/
theorem unpackWord_packWord (px : Px) :
    unpackWord (packWord px) = { r := px.r % 1024, g := px.g % 1024, b := px.b % 1024, a := px.a % 4 } := by
  simp only [unpackWord, packWord_eq, Px.mk.injEq, and_true]
  omega

/-! ### What a channel can hold -/

/-- The number of values that channel `c` of a surface can hold: those of its field or of its element (43 R220, R224). -/
def SurfRef.chanSize (p : SurfRef) (c : Chan) : Nat :=
  if p.surf = .rgba1010102 then (if c = .a then 4 else 1024) else 256 ^ p.es

section
variable {p : SurfRef}

theorem SurfRef.chanSize_packed (hp : p.surf = .rgba1010102) (c : Chan) :
    p.chanSize c = if c = .a then 4 else 1024 := if_pos hp

theorem SurfRef.chanSize_unpacked (hp : p.surf ≠ .rgba1010102) (c : Chan) : p.chanSize c = 256 ^ p.es := if_neg hp

theorem SurfRef.unpack_packed (hp : p.surf = .rgba1010102) (m : Memory) (x y : Nat) :
    p.unpack m x y = unpackWord (m.sample (p.word x y)) := if_pos hp

/-- What `unpack` reads in a channel of the layout is a value of that channel. -/
theorem SurfRef.get_unpack_lt {c : Chan} (hc : c ∈ p.surf.channels) (m : Memory) (x y : Nat) :
    (p.unpack m x y).get c < p.chanSize c := by
  by_cases hp : p.surf = .rgba1010102
  · rw [SurfRef.chanSize_packed hp, SurfRef.unpack_packed hp]
    cases c with
    | l => simp [hp, Surf.channels] at hc
    | _ => exact Nat.mod_lt _ (by decide)
  · obtain ⟨k, hk⟩ := List.mem_iff_getElem?.1 hc
    rw [SurfRef.chanSize_unpacked hp, SurfRef.get_unpack hp, SurfRef.readChan_of_channel hk]
    exact read_lt _ _ _

/-- Where the stores of a pixel can be read back, `unpack` gives each channel of the pixel, cut to the values the channel
can hold. -/
theorem SurfRef.get_unpack_of_pack {m : Memory} {x y : Nat} {px : Px} {c : Chan}
    (h : ∀ st ∈ p.pack x y px, m.sample st.elem = st.val % 256 ^ st.elem.size) (hc : c ∈ p.surf.channels) :
    (p.unpack m x y).get c = px.get c % p.chanSize c := by
  by_cases hp : p.surf = .rgba1010102
  · have hst : ⟨p.word x y, packWord px⟩ ∈ p.pack x y px := by simp [SurfRef.pack, hp]
    have hword : m.sample (p.word x y) = packWord px := (h _ hst).trans (Nat.mod_eq_of_lt (packWord_lt px))
    rw [SurfRef.unpack_packed hp, hword, unpackWord_packWord, SurfRef.chanSize_packed hp]
    cases c with
    | l => simp [hp, Surf.channels] at hc
    | _ => rfl
  · obtain ⟨k, hk⟩ := List.mem_iff_getElem?.1 hc
    rw [SurfRef.get_unpack hp, SurfRef.readChan_of_channel hk, SurfRef.chanSize_unpacked hp]
    exact h _ (SurfRef.mem_pack hp hk x y px)

end

/-- After a band of format S, each channel of surface B reads as that of the pixel the operation makes of surface A's,
cut to the values the channel can hold (44 R254). -/
theorem get_unpack_after_band {i : Instr} {f : Job → Px → Px} {s t : State} {job : Job} (hband : bandOf i = rowBand f)
    (h : Running i s job) (he : exec i s = .next t) {x : Nat} (hx : x < job.w) {c : Chan}
    (hc : c ∈ job.surfB.channels) :
    (job.refB.unpack t.mem x s.rowPos.toNat).get c =
      (f job (job.refA.unpack s.mem x s.rowPos.toNat)).get c % job.refB.chanSize c := by
  refine SurfRef.get_unpack_of_pack (fun st hst => sample_after_band h he ?_) hc
  rw [hband]
  exact List.mem_flatMap.2 ⟨x, List.mem_range.2 hx, hst⟩

/-! ### The pixel of PERM (43 R230) -/

/-- A channel of surface B is surface A's where A has it; only alpha can be missing, and it is then opaque. -/
theorem get_permPixel {job : Job} (hA : job.surfA ≠ .gray) (hB : job.surfB ≠ .gray) {c : Chan}
    (hc : c ∈ job.surfB.channels) (px : Px) :
    (permPixel job px).get c = if c ∈ job.surfA.channels then px.get c else amax job.surfB job.depth.bits := by
  simp only [Surf.mem_channels hA, Surf.mem_channels hB] at hc ⊢
  obtain ⟨hl, halpha⟩ := hc
  cases c with
  | l => exact absurd rfl hl
  | a => cases ha : job.surfA.hasAlpha <;> simp [permPixel, Px.get, halpha rfl, ha]
  | _ => unfold permPixel; split <;> simp [Px.get]

theorem Job.perm_sizes {job : Job} (hk : job.kind = .perm) : job.esA = job.depth.es ∧ job.esB = job.depth.es := by
  rw [Job.esA, Job.esB, hk]
  exact ⟨rfl, rfl⟩

section
variable {cfg : Config} {d : Desc} {job : Job}

/-- What E_UNSUP leaves of PERM: no GRAY, and the packed surface at 10 bits only (60 R296). -/
theorem permLayouts_of_resolve (h : resolve .perm cfg d = .ok job) :
    job.surfA ≠ .gray ∧ job.surfB ≠ .gray ∧ (job.surfA = .rgba1010102 → job.depth = .d10) := by
  obtain ⟨f, n, -, -, -, -, hfmt, rfl⟩ := decodeJob_eq_ok (resolve_eq_ok.1 h).1
  change f.surfA ≠ .gray ∧ f.surfB.getD f.surfA ≠ .gray ∧ (f.surfA = .rgba1010102 → n = .d10)
  simp only [fmtUnsupported, Instr.kind, packedDepthBad, Bool.or_eq_false_iff, beq_eq_false_iff_ne] at hfmt
  obtain ⟨⟨⟨⟨⟨hA, hB⟩, hdepth⟩, -⟩, -⟩, -⟩ := hfmt
  exact ⟨hA, hB, fun hpacked => by simpa [hpacked] using hdepth⟩

/-- A channel of surface A fits an element of surface B: the elements are of one size, and a field of the packed word is
no wider than an element at 10 bits. -/
theorem chanSize_le_element (h : resolve .perm cfg d = .ok job) (c : Chan) :
    job.refA.chanSize c ≤ 256 ^ job.esB := by
  obtain ⟨-, -, hdepth⟩ := permLayouts_of_resolve h
  obtain ⟨hesA, hesB⟩ := Job.perm_sizes (kind_of_resolve h)
  by_cases hp : job.surfA = .rgba1010102
  · rw [SurfRef.chanSize_packed hp, hesB, hdepth hp]
    split <;> decide
  · rw [SurfRef.chanSize_unpacked hp, hesB, ← hesA]
    exact le_refl (256 ^ job.esA)

/-- What PERM writes to a surface B that is not packed is stored whole. -/
theorem get_permPixel_lt (h : resolve .perm cfg d = .ok job) (hunpacked : job.surfB ≠ .rgba1010102) {c : Chan}
    (hc : c ∈ job.surfB.channels) (m : Memory) (x y : Nat) :
    (permPixel job (job.refA.unpack m x y)).get c < 256 ^ job.esB := by
  obtain ⟨hA, hB, -⟩ := permLayouts_of_resolve h
  rw [get_permPixel hA hB hc]
  split
  case isTrue hcA => exact (SurfRef.get_unpack_lt (p := job.refA) hcA m x y).trans_le (chanSize_le_element h c)
  case isFalse =>
    rw [amax, if_neg hunpacked, (Job.perm_sizes (kind_of_resolve h)).2]
    exact maxv_lt_element job.depth

end

/-- Settles O38: surface B reads as the pixel PERM makes, cut to the fields of the packed word, and whole elsewhere. -/
theorem permCopiesChannels : Obligations.PermCopiesChannels := by
  intro s job h
  have ⟨_, hres, _⟩ := h
  obtain ⟨hA, hB, -⟩ := permLayouts_of_resolve hres
  obtain ⟨t, he, hout, hframe⟩ := exec_band_frame h
  refine ⟨t, he, fun x hx c hc v hcopy hopaque => ?_, hout, hframe⟩
  have hv : (permPixel job (job.refA.unpack s.mem x s.rowPos.toNat)).get c = v := by
    rw [get_permPixel hA hB hc]
    split
    case isTrue hcA => exact (hcopy hcA).symm
    case isFalse hcA => exact (hopaque hcA).symm
  rw [get_unpack_after_band rfl h he hx hc, hv]
  by_cases hpacked : job.surfB = .rgba1010102
  · rw [SurfRef.chanSize_packed (p := job.refB) hpacked, if_pos hpacked]
    split <;> rfl
  · rw [SurfRef.chanSize_unpacked (p := job.refB) hpacked, if_neg hpacked]
    exact Nat.mod_eq_of_lt (hv ▸ get_permPixel_lt hres hpacked hc s.mem x s.rowPos.toNat)

end Sys2Proof.Machine
end

section
/-! The sequencer (44 R250, R251, R255 to R257): whose turn a step is, what an accepted START leaves, and a job left
alone, which takes one band per step until its last. -/

namespace Sys2Proof.Machine

/-! ### Turns of the engine (44 R251, R257) -/

section
variable {s : State} {rest : List Input}

/-- With no input left the turn is the engine's. -/
theorem nextTurn_noInput (hi : s.inputs = []) : nextTurn s = engineTurn s := by
  rw [nextTurn, hi]

/-- An engine turn among the inputs is used up. -/
theorem nextTurn_engineTurn (hi : s.inputs = .engineTurn :: rest) :
    nextTurn s = engineTurn { s with inputs := rest } := by
  rw [nextTurn, hi]
  rfl

theorem engineTurn_busy (hb : s.busy = true) : engineTurn s = .job s := by
  rw [engineTurn, if_pos hb]

theorem engineTurn_idle (hb : s.busy = false) : engineTurn s = .settled s := by
  rw [engineTurn, hb]
  rfl

/-- A turn that goes to the job runs the instruction that CTRL names. -/
theorem step_of_nextTurn_job {i : Instr} {u : State} (h : nextTurn s = .job u) (hd : decode u.desc.ctrl = .ok i) :
    step s = exec i u := by
  simp only [step, h, hd]

theorem step_of_nextTurn_settled {t : State} (h : nextTurn s = .settled t) : step s = .next t := by
  simp only [step, h]

/-- With no input left a busy engine takes its next band. -/
theorem step_busy_noInput {i : Instr} (hb : s.busy = true) (hi : s.inputs = []) (hd : decode s.desc.ctrl = .ok i) :
    step s = exec i s :=
  step_of_nextTurn_job ((nextTurn_noInput hi).trans (engineTurn_busy hb)) hd

end

/-- Settles O15: each of the three turns is one that goes to the job. -/
theorem stepRunsTheDecodedJob : Obligations.StepRunsTheDecodedJob := by
  refine fun s i hd => ⟨fun rest hb hi => ?_, fun hb hi => step_busy_noInput hb hi hd, fun rest hb hi => ?_⟩
  · exact step_of_nextTurn_job (nextTurn_start hi rfl hb) hd
  · exact step_of_nextTurn_job ((nextTurn_engineTurn hi).trans (engineTurn_busy (s := { s with inputs := rest }) hb)) hd

/-- Settles O16: the idle engine's turn settles at once. -/
theorem idleEngineDoesNothing : Obligations.IdleEngineDoesNothing := by
  refine fun s hb => ⟨fun hi => ?_, fun rest hi => ?_⟩
  · exact step_of_nextTurn_settled ((nextTurn_noInput hi).trans (engineTurn_idle hb))
  · exact step_of_nextTurn_settled ((nextTurn_engineTurn hi).trans (engineTurn_idle (s := { s with inputs := rest }) hb))

/-! ### An accepted START (44 R250) -/

theorem launch_of_resolve {i : Instr} {s : State} {job : Job} (h : resolve i s.cfg s.desc = .ok job) :
    launch i s = acceptJob job (startClear s) := by
  rw [launch, h]

/-- Settles O18: the launch is `acceptJob`, after which neither DONE nor ERR raises irq. -/
theorem acceptedStartLaunches : Obligations.AcceptedStartLaunches := by
  rintro i s job ⟨hb, hres⟩
  refine ⟨acceptJob job (startClear s), ?_, rfl, rfl⟩
  rw [exec_eq_launch hb, launch_of_resolve hres]

/-! ### Frames of memory -/

theorem SameOutside.refl (es : List Elem) (m : Memory) : SameOutside es m m := fun _ _ => rfl

theorem SameOutside.trans {es : List Elem} {m m' m'' : Memory} (h : SameOutside es m m') (h' : SameOutside es m' m'') :
    SameOutside es m m'' := fun a ha => (h' a ha).trans (h a ha)

theorem SameOutside.mono {es es' : List Elem} {m m' : Memory} (h : SameOutside es m m') (hsub : es ⊆ es') :
    SameOutside es' m m' := fun a ha => h a fun e he => ha e (hsub he)

/-- A band's writes stay in its elements, whether the host has kept the ownership protocol or not. -/
theorem writeBand_sameOutside {sts : List Store} {es : List Elem} {s : State} (hwf : s.mem.wf = true)
    (helems : sts.map Store.elem = es) : SameOutside es s.mem (writeBand sts es s).mem := by
  intro a ha
  unfold writeBand
  split
  · exact havocElems_other hwf ha
  · exact getByte_applyStores_outside hwf fun st hst => ha _ (helems ▸ List.mem_map_of_mem hst)

/-! ### A job left alone (44 R255, R256) -/

/-- A run can be continued by a step. -/
theorem run_snoc {M : Host.Core} {k : Nat} {s t u : M.State} (h : M.run k s = .next t) (hstep : M.step t = .next u) :
    M.run (k + 1) s = .next u := by
  induction k generalizing s with
  | zero =>
    obtain rfl : s = t := Host.Outcome.next.inj h
    rw [run_succ_of_next hstep, Host.Core.run]
  | succ k ih =>
    rw [Host.Core.run] at h ⊢
    split at h
    · exact ih h
    · cases h
    · cases h

theorem Steps.snoc {k : Nat} {s t u : State} (h : Steps k s t) (hstep : step t = .next u) : Steps (k + 1) s u :=
  run_snoc (M := core) h hstep

/-- ROWPOS, 32 bits wide, can count the bands of a legal job: there are no more of them than rows. -/
theorem nbands_lt_of_resolve {i : Instr} {c : Config} {d : Desc} {job : Job} (h : resolve i c d = .ok job) :
    job.nbands < 2 ^ 32 := by
  have hsy : 0 < job.sy := (sy_of_resolve h).1
  have hle : job.nbands ≤ job.h := not_lt.1 fun hlt =>
    absurd ((lt_ceilDiv_iff hsy job.h).1 hlt) (Nat.le_mul_of_pos_right job.h hsy).not_gt
  obtain ⟨f, n, -, -, -, -, -, rfl⟩ := decodeJob_eq_ok (resolve_eq_ok.1 h).1
  exact hle.trans_lt d.height.isLt

/-- What a job left alone has come to after `k` of its bands. -/
structure BandsDone (job : Job) (s : State) (k : Nat) (t : State) : Prop where
  cfg : t.cfg = s.cfg
  desc : t.desc = s.desc
  inputs : t.inputs = []
  memWf : t.mem.wf = true
  rowPos : t.rowPos.toNat = k
  underway : k < job.nbands → t.busy = true ∧ t.done = false
  complete : k = job.nbands → t.busy = false ∧ t.done = true
  frame : SameOutside job.destElems s.mem t.mem

section
variable {i : Instr} {s : State} {job : Job}

/-- The next band of a job left alone. -/
theorem BandsDone.next {k : Nat} {t : State} (h : BandsDone job s k t) (hk : k < job.nbands)
    (hd : decode s.desc.ctrl = .ok i) (hres : resolve i s.cfg s.desc = .ok job) :
    ∃ u, step t = .next u ∧ BandsDone job s (k + 1) u := by
  obtain ⟨hcfg, hdesc, hinputs, hwf, rfl, hunderway, -, hframe⟩ := h
  obtain ⟨hbusy, hdone⟩ := hunderway hk
  have hrest : resolve i t.cfg t.desc = .ok job := by rw [hcfg, hdesc, hres]
  have hadd : (t.rowPos + 1).toNat = t.rowPos.toNat + 1 := by
    have hlt := nbands_lt_of_resolve hres
    bv_omega
  have hstep := step_busy_noInput hbusy hinputs (hdesc ▸ hd)
  refine ⟨_, hstep.trans (exec_eq_band hbusy hrest hk), ?_⟩
  refine ⟨by simpa using hcfg, by simpa using hdesc, by simpa using hinputs, ?_, by simpa using hadd,
    fun hlt => ?_, fun hlast => ?_, ?_⟩
  · rw [finishBand_mem]
    exact writeBand_wf hwf
  · rw [finishBand_busy, finishBand_done, writeBand_rowPos, if_neg hlt.ne, if_neg hlt.ne, writeBand_busy, writeBand_done]
    exact ⟨hbusy, hdone⟩
  · rw [finishBand_busy, finishBand_done, writeBand_rowPos, if_pos hlast, if_pos hlast]
    exact ⟨rfl, rfl⟩
  · rw [finishBand_mem]
    have hband := writeBand_sameOutside hwf (bandOf_elems (kind_of_resolve hres) t.mem t.rowPos.toNat)
    exact hframe.trans (hband.mono (bandElems_subset_destElems hk))

/-- Each step of a job left alone is one band. -/
theorem steps_bandsDone (hd : decode s.desc.ctrl = .ok i) (hres : resolve i s.cfg s.desc = .ok job)
    (hstart : BandsDone job s 0 s) {k : Nat} (hk : k ≤ job.nbands) : ∃ t, Steps k s t ∧ BandsDone job s k t := by
  induction k with
  | zero => exact ⟨s, rfl, hstart⟩
  | succ k ih =>
    obtain ⟨t, hsteps, ht⟩ := ih (Nat.le_of_succ_le hk)
    obtain ⟨u, hstep, hu⟩ := ht.next hk hd hres
    exact ⟨u, hsteps.snoc hstep, hu⟩

end

/-- Settles O48: by induction on the bands, each of which is one step that keeps `BandsDone`. -/
theorem acceptedJobsCompleteInNbandsSteps : Obligations.AcceptedJobsCompleteInNbandsSteps := by
  intro i s job hbusy hdone hinputs hrow hwf hd hres
  have hstart : BandsDone job s 0 s :=
    ⟨rfl, rfl, hinputs, hwf, by rw [hrow]; rfl, fun _ => ⟨hbusy, hdone⟩,
      fun h => absurd h (nbands_pos_of_resolve hres).ne, .refl _ _⟩
  refine ⟨fun k hk => ?_, ?_⟩
  · obtain ⟨t, hsteps, ht⟩ := steps_bandsDone hd hres hstart hk.le
    obtain ⟨hb, hnot⟩ := ht.underway hk
    exact ⟨t, hsteps, hb, hnot, ht.rowPos⟩
  · obtain ⟨t, hsteps, ht⟩ := steps_bandsDone hd hres hstart le_rfl
    obtain ⟨hb, hall⟩ := ht.complete rfl
    exact ⟨t, hsteps, hb, hall, ht.rowPos, ht.desc, ht.frame⟩

end Sys2Proof.Machine
end

section
/-! ENC and DEC (44 R252, R253): the samples and pixels of a band in the terms of the rules of 40 R131 to R137 and
41 R170 to R174, each of which fits the element or field it is stored in. -/

namespace Sys2Proof.Machine

/-! ### Offsets, rounding and the clamp on integers (40 R133, R136, R137) -/

theorem cast_maxv (n : Nat) : (maxv n : Int) = 2 ^ n - 1 := by
  rw [maxv, Nat.cast_sub Nat.one_le_two_pow]
  simp

theorem cast_yoff (n : Nat) (range : YuvRange) :
    (yoff n range : Int) = if range = .tv then 16 * 2 ^ (n - 8) else 0 := by
  cases range <;> simp [yoff]

theorem cast_cbias (n : Nat) : (cbias n : Int) = 2 ^ (n - 1) := by
  simp [cbias]

theorem roundAcc_eq (acc : Int) : roundAcc acc = (acc + 32768) / 65536 := rfl

theorem cast_clampSample (v : Int) (n : Nat) : (clampSample v n : Int) = clamp v 0 (2 ^ n - 1) := by
  have hclamp : 0 ≤ clamp v 0 (maxv n) := by
    unfold clamp
    split_ifs <;> omega
  rw [clampSample, Int.toNat_of_nonneg hclamp, cast_maxv]

theorem clampSample_le (v : Int) (n : Nat) : clampSample v n ≤ maxv n := by
  have h := clampSample_eq v n
  omega

/-- A clamped sample fits its element (20 R64). -/
theorem clampSample_lt_element (v : Int) (n : Depth) : clampSample v n.bits < 256 ^ n.es :=
  (clampSample_le v n.bits).trans_lt (maxv_lt_element n)

/-! ### What the descriptor settles of a job of format C -/

theorem sx_of_resolve {i : Instr} {c : Config} {d : Desc} {job : Job} (h : resolve i c d = .ok job) : 0 < job.sx := by
  obtain ⟨f, n, -, -, -, -, -, rfl⟩ := decodeJob_eq_ok (resolve_eq_ok.1 h).1
  exact (subsFactors_pos c f.subs).1

/-- The matrix is that of M0..M8, and the range that of CTRL (30 R96, 40 R131). -/
theorem mat_range_of_resolve {i : Instr} {c : Config} {d : Desc} {job : Job} (h : resolve i c d = .ok job) :
    job.mat = d.coeffs ∧ job.range = i.range := by
  obtain ⟨f, n, -, -, -, -, -, rfl⟩ := decodeJob_eq_ok (resolve_eq_ok.1 h).1
  exact ⟨rfl, rfl⟩

/-! ### The samples of ENC (40 R134, 41 R170) -/

section
variable {job : Job} {d : Desc} (hmat : job.mat = d.coeffs) (m : Memory)
include hmat

/-- The luma sample from M0..M2. -/
theorem cast_encY (x y : Nat) :
    (encY job m x y : Int) =
      clamp ((rowTimesPixel d.m0 d.m1 d.m2 job m x y
        + (if job.range = .tv then 16 * 2 ^ (job.depth.bits - 8) else 0) * 65536 + 32768) / 65536)
        0 (2 ^ job.depth.bits - 1) := by
  rw [encY, forwardY, cast_clampSample, cast_yoff, roundAcc_eq, hmat]
  rfl

theorem blockSum_accU (cx cy : Nat) :
    blockSum accU job m cx cy =
      ((job.block cx cy).map fun p => rowTimesPixel d.m3 d.m4 d.m5 job m p.1 p.2).sum := by
  rw [blockSum, hmat]
  rfl

theorem blockSum_accV (cx cy : Nat) :
    blockSum accV job m cx cy =
      ((job.block cx cy).map fun p => rowTimesPixel d.m6 d.m7 d.m8 job m p.1 p.2).sum := by
  rw [blockSum, hmat]
  rfl

end

/-- One rounding of the sum of a block, the bias `CBIAS` added. -/
theorem cast_decimate (sum : Int) (k n : Nat) :
    (decimate sum k n : Int) =
      clamp ((sum + (k : Int) * (2 ^ (n - 1) * 65536 + 32768)) / ((k : Int) * 65536)) 0 (2 ^ n - 1) := by
  rw [decimate, cast_clampSample, cast_cbias]

/-- Settles O28: the stored samples are read back whole, and are those of the rules. -/
theorem encBandWritesLumaAndAveragedChroma : Obligations.EncBandWritesLumaAndAveragedChroma := by
  intro model rot range tf s job h
  have ⟨_, hres, _⟩ := h
  obtain ⟨hmat, hrange⟩ := mat_range_of_resolve hres
  obtain ⟨t, he, hout, hframe⟩ := exec_band_frame h
  refine ⟨t, he, fun y hy x hx => ?_, fun hs cx hcx => ?_, hout, hframe⟩
  · have hfits : encY job s.mem x y < 256 ^ job.es := clampSample_lt_element _ job.depth
    rw [luma_after_encBand h he hy hx, Nat.mod_eq_of_lt hfits, cast_encY hmat, hrange]
    rfl
  · have hfitsU : encU job s.mem cx s.rowPos.toNat < 256 ^ job.es := clampSample_lt_element _ job.depth
    have hfitsV : encV job s.mem cx s.rowPos.toNat < 256 ^ job.es := clampSample_lt_element _ job.depth
    obtain ⟨hu, hv⟩ := chroma_after_encBand h he hs hcx
    rw [hu, hv, Nat.mod_eq_of_lt hfitsU, Nat.mod_eq_of_lt hfitsV, encU, encV, cast_decimate, cast_decimate,
      blockSum_accU hmat, blockSum_accV hmat, job.length_block]
    exact ⟨rfl, rfl⟩

/-! ### The pixels of DEC (40 R135, 41 R173, R174, 43 R226) -/

/-- What E_UNSUP leaves of DEC: no GRAY, and the packed surface at 10 bits only (60 R296). -/
theorem decSurface_of_resolve {i : Instr} (hk : i.kind = .dec) {c : Config} {d : Desc} {job : Job}
    (h : resolve i c d = .ok job) : job.surfA ≠ .gray ∧ (job.surfA = .rgba1010102 → job.depth = .d10) := by
  obtain ⟨f, n, -, -, -, -, hfmt, rfl⟩ := decodeJob_eq_ok (resolve_eq_ok.1 h).1
  change f.surfA ≠ .gray ∧ (f.surfA = .rgba1010102 → n = .d10)
  simp only [hk, fmtUnsupported, packedDepthBad, Bool.or_eq_false_iff, beq_eq_false_iff_ne] at hfmt
  obtain ⟨⟨hgray, hdepth⟩, -⟩ := hfmt
  exact ⟨hgray, fun hpacked => by simpa [hpacked] using hdepth⟩

theorem Job.dec_esA {job : Job} (hk : job.kind = .dec) : job.esA = job.depth.es := by
  rw [Job.esA, hk]
  rfl

/-- The pixel of DEC: three rows of the matrix, and opaque alpha. -/
theorem decPixel_get_le (job : Job) (m : Memory) (x y j : Nat) (c : Chan) :
    (decPixel job m x y j).get c ≤ if c = .a then amax job.surfA job.depth.bits else maxv job.depth.bits := by
  cases c with
  | a => exact le_rfl
  | l => exact Nat.zero_le _
  | _ => exact clampSample_le _ _

/-- Every channel of the pixel of DEC fits its field or its element. -/
theorem decPixel_get_lt {i : Instr} (hk : i.kind = .dec) {cfg : Config} {d : Desc} {job : Job}
    (h : resolve i cfg d = .ok job) (m : Memory) (x y j : Nat) (c : Chan) :
    (decPixel job m x y j).get c < job.refA.chanSize c := by
  refine (decPixel_get_le job m x y j c).trans_lt ?_
  by_cases hp : job.surfA = .rgba1010102
  · rw [SurfRef.chanSize_packed hp, amax, if_pos hp, (decSurface_of_resolve hk h).2 hp]
    split <;> decide
  · have hsize : job.refA.chanSize c = 256 ^ job.depth.es := by
      rw [SurfRef.chanSize_unpacked hp, ← Job.dec_esA ((kind_of_resolve h).trans hk)]
      rfl
    rw [hsize, amax, if_neg hp, ite_self]
    exact maxv_lt_element job.depth

section
variable {model : ColorModel} {rot : BitVec 2} {range : YuvRange} {tf : BitVec 4} {s t : State} {job : Job}

/-- After a band of DEC surface A reads as the pixels of DEC. -/
theorem get_unpack_after_decBand (h : Running (.dec model rot range tf) s job)
    (he : exec (.dec model rot range tf) s = .next t) {x y : Nat} (hy : y ∈ job.bandRows s.rowPos.toNat)
    (hx : x < job.w) {c : Chan} (hc : c ∈ job.surfA.channels) :
    (job.refA.unpack t.mem x y).get c = (decPixel job s.mem x y s.rowPos.toNat).get c := by
  have ⟨_, hres, _⟩ := h
  have hback := SurfRef.get_unpack_of_pack (p := job.refA) (m := t.mem) (x := x) (y := y)
    (px := decPixel job s.mem x y s.rowPos.toNat) (fun st hst => sample_after_band h he ?_) hc
  · rwa [Nat.mod_eq_of_lt (decPixel_get_lt rfl hres _ _ _ _ _)] at hback
  · exact List.mem_flatMap.2 ⟨y, hy, List.mem_flatMap.2 ⟨x, List.mem_range.2 hx, hst⟩⟩

end

/-- The chroma samples that cover a pixel of DEC, neutral for 4:0:0. -/
theorem decChroma_eq {job : Job} {m : Memory} {x j u v : Nat}
    (h400 : job.subs = .s400 → u = 2 ^ (job.depth.bits - 1) ∧ v = 2 ^ (job.depth.bits - 1))
    (hchroma : job.subs ≠ .s400 →
      u = m.sample (job.uElem (x / job.sx) j) ∧ v = m.sample (job.vElem (x / job.sx) j)) :
    decU job m x j = u ∧ decV job m x j = v := by
  unfold decU decV Job.hasChroma
  by_cases hs : job.subs = .s400
  · obtain ⟨rfl, rfl⟩ := h400 hs
    simp [hs, cbias]
  · obtain ⟨rfl, rfl⟩ := hchroma hs
    simp [hs]

/-- A row of the inverse matrix, rounded and clamped, on integers (40 R135, R136). -/
theorem cast_clampSample_roundAcc_dot (a b c x y z : Int) (n : Nat) :
    (clampSample (roundAcc (dot a b c x y z)) n : Int) =
      clamp ((a * x + b * y + c * z + 32768) / 65536) 0 (2 ^ n - 1) := by
  rw [cast_clampSample, roundAcc_eq, dot]

/-- Settles O29: the pixels are read back whole, and are those of the rules. -/
theorem decBandWritesPixels : Obligations.DecBandWritesPixels := by
  intro model rot range tf s job h
  have ⟨_, hres, _⟩ := h
  obtain ⟨hmat, hrange⟩ := mat_range_of_resolve hres
  obtain ⟨hgray, -⟩ := decSurface_of_resolve rfl hres
  obtain ⟨t, he, hout, hframe⟩ := exec_band_frame h
  refine ⟨t, he, fun y hy x hx u v h400 hchroma => ?_, hout, hframe⟩
  have hget {c : Chan} (hc : c ∈ job.surfA.channels) := get_unpack_after_decBand h he hy hx hc
  have hcolour {c : Chan} (hl : c ≠ .l) (ha : c ≠ .a) :=
    hget ((Surf.mem_channels hgray c).2 ⟨hl, fun h => absurd h ha⟩)
  obtain ⟨hu, hv⟩ := decChroma_eq h400 hchroma
  have hr : (job.refA.unpack t.mem x y).r = _ := hcolour (c := .r) (by decide) (by decide)
  have hg : (job.refA.unpack t.mem x y).g = _ := hcolour (c := .g) (by decide) (by decide)
  have hb : (job.refA.unpack t.mem x y).b = _ := hcolour (c := .b) (by decide) (by decide)
  simp only [Px.get, decPixel, inverse, hu, hv, hmat] at hr hg hb
  rw [hr, hg, hb]
  simp only [cast_clampSample_roundAcc_dot, cast_yoff, cast_cbias, hrange]
  refine ⟨rfl, rfl, rfl, fun hpacked => ?_, fun hunpacked halpha => ?_⟩
  · have halpha : Chan.a ∈ job.surfA.channels := by rw [hpacked]; decide
    exact (hget halpha).trans (if_pos hpacked)
  · exact (hget halpha).trans (if_neg hunpacked)

end Sys2Proof.Machine
end

section
/-! What a band depends on (44 R258, 20 R68): its stores are a function of the job and of the samples at the job's source
elements, so two memories that agree there make the same stores. -/

namespace Sys2Proof.Machine

/-! ### Reads that agree -/

/-- The sample of an element is a matter of the element's bytes. -/
theorem sample_congr {m m' : Memory} {e : Elem} (h : ∀ a, e.covers a → m'.getByte a = m.getByte a) :
    m'.sample e = m.sample e :=
  read_congr fun a hlo hhi => h a ⟨hlo, hhi⟩

/-- `unpack` reads the elements of its pixel alone (43 R222). -/
theorem SurfRef.unpack_congr {p : SurfRef} {m m' : Memory} {x y : Nat}
    (h : ∀ e ∈ p.pixelElems x y, m'.sample e = m.sample e) : p.unpack m' x y = p.unpack m x y := by
  unfold SurfRef.pixelElems at h
  by_cases hp : p.surf = .rgba1010102
  · rw [if_pos hp, List.forall_mem_singleton] at h
    rw [SurfRef.unpack_packed hp, SurfRef.unpack_packed hp, h]
  · rw [if_neg hp, List.forall_mem_map] at h
    have hchan (c : Chan) : p.readChan m' x y c = p.readChan m x y c := by
      unfold SurfRef.readChan
      split
      case isTrue hc =>
        exact h _ (List.mem_range.2 (List.idxOf_lt_length_of_mem (List.contains_iff_mem.1 hc)))
      case isFalse => rfl
    simp only [SurfRef.unpack, if_neg hp, hchan]

/-! ### Bands of memories that agree (44 R252 to R254) -/

section
variable {job : Job} {m m' : Memory} {j : Nat}

theorem rowBand_congr (f : Job → Px → Px)
    (h : ∀ x < job.w, job.refA.unpack m' x j = job.refA.unpack m x j) : rowBand f job m' j = rowBand f job m j :=
  List.flatMap_congr fun x hx => by rw [h x (List.mem_range.1 hx)]

theorem blockSum_congr (acc : Coeffs → Nat → Nat → Nat → Int) {cx cy : Nat}
    (h : ∀ p ∈ job.block cx cy, job.refA.unpack m' p.1 p.2 = job.refA.unpack m p.1 p.2) :
    blockSum acc job m' cx cy = blockSum acc job m cx cy :=
  congrArg List.sum (List.map_congr_left fun p hp => by simp only [h p hp])

theorem encBand_congr (hsx : 0 < job.sx) (hsy : 0 < job.sy)
    (h : ∀ x < job.w, ∀ y < job.h, job.refA.unpack m' x y = job.refA.unpack m x y) :
    encBand job m' j = encBand job m j := by
  have hluma : ∀ y ∈ job.bandRows j, ∀ x ∈ List.range job.w, encY job m' x y = encY job m x y := fun y hy x hx => by
    simp only [encY, h x (List.mem_range.1 hx) y ((Job.mem_bandRows_iff_div hsy j y).1 hy).1]
  have hblock (acc : Coeffs → Nat → Nat → Nat → Int) (cx : Nat) :
      blockSum acc job m' cx j = blockSum acc job m cx j := blockSum_congr acc fun p hp => by
    obtain ⟨hx, hy, -, -⟩ := (Job.mem_block_iff hsx hsy cx j p.1 p.2).1 hp
    exact h p.1 hx p.2 hy
  unfold encBand
  refine congrArg₂ (· ++ ·) ?_ ?_
  · exact List.flatMap_congr fun y hy => List.map_congr_left fun x hx => by rw [hluma y hy x hx]
  · simp only [encU, encV, hblock]

/-- The chroma column that covers a luma column exists (41 R162). -/
theorem Job.div_sx_lt_cw (hsx : 0 < job.sx) {x : Nat} (hx : x < job.w) : x / job.sx < job.cw :=
  (lt_ceilDiv_iff hsx _).2 ((Nat.div_mul_le_self x job.sx).trans_lt hx)

theorem decChroma_congr {x : Nat} (h : job.subs ≠ .s400 →
      m'.sample (job.uElem (x / job.sx) j) = m.sample (job.uElem (x / job.sx) j) ∧
      m'.sample (job.vElem (x / job.sx) j) = m.sample (job.vElem (x / job.sx) j)) :
    decU job m' x j = decU job m x j ∧ decV job m' x j = decV job m x j := by
  unfold decU decV Job.hasChroma
  by_cases hs : job.subs = .s400
  · simp [hs]
  · simp [hs, h hs]

theorem decBand_congr (hsx : 0 < job.sx) (hsy : 0 < job.sy)
    (hluma : ∀ x < job.w, ∀ y < job.h, m'.sample (job.lumaElem x y) = m.sample (job.lumaElem x y))
    (hchroma : job.subs ≠ .s400 → ∀ cx < job.cw,
      m'.sample (job.uElem cx j) = m.sample (job.uElem cx j) ∧ m'.sample (job.vElem cx j) = m.sample (job.vElem cx j)) :
    decBand job m' j = decBand job m j := by
  refine List.flatMap_congr fun y hy => List.flatMap_congr fun x hx => ?_
  have hxw : x < job.w := List.mem_range.1 hx
  have hyh : y < job.h := ((Job.mem_bandRows_iff_div hsy j y).1 hy).1
  obtain ⟨hu, hv⟩ := decChroma_congr fun hs => hchroma hs _ (Job.div_sx_lt_cw hsx hxw)
  simp only [decPixel, hluma x hxw y hyh, hu, hv]

end

/-! ### The stores of a band of an accepted job -/

section
variable {i : Instr} {c : Config} {d : Desc} {job : Job} {m m' : Memory}

/-- The memories agree on every source element of the job. -/
def SourcesAgree (job : Job) (m m' : Memory) : Prop := ∀ e, SourceElem job e → m'.sample e = m.sample e

/-- Of any job but DEC the source elements are the pixels of surface A. -/
theorem SourcesAgree.unpack (h : SourcesAgree job m m') (hk : job.kind ≠ .dec) {x y : Nat} (hx : x < job.w)
    (hy : y < job.h) : job.refA.unpack m' x y = job.refA.unpack m x y :=
  SurfRef.unpack_congr fun e he => h e (by rw [SourceElem, if_neg hk]; exact ⟨x, hx, y, hy, he⟩)

theorem SourcesAgree.luma (h : SourcesAgree job m m') (hk : job.kind = .dec) {x y : Nat} (hx : x < job.w)
    (hy : y < job.h) : m'.sample (job.lumaElem x y) = m.sample (job.lumaElem x y) :=
  h _ (by rw [SourceElem, if_pos hk]; exact .inl ⟨x, hx, y, hy, rfl⟩)

theorem SourcesAgree.chroma (h : SourcesAgree job m m') (hk : job.kind = .dec) (hs : job.subs ≠ .s400) {cx cy : Nat}
    (hcx : cx < job.cw) (hcy : cy < job.ch) :
    m'.sample (job.uElem cx cy) = m.sample (job.uElem cx cy) ∧
    m'.sample (job.vElem cx cy) = m.sample (job.vElem cx cy) := by
  have hsource {e : Elem} (he : e = job.uElem cx cy ∨ e = job.vElem cx cy) : SourceElem job e := by
    rw [SourceElem, if_pos hk]
    exact .inr ⟨hs, cx, hcx, cy, hcy, he⟩
  exact ⟨h _ (hsource (.inl rfl)), h _ (hsource (.inr rfl))⟩

/-- A format S job has a band for each row (44 R255). -/
theorem nbands_formatS (h : resolve i c d = .ok job) (hS : job.kind.isC = false) : job.nbands = job.h := by
  simp [Job.nbands, ceilDiv, (sy_of_resolve h).2 hS]

/-- 44 R258: a band makes the same stores from memories that agree on the job's source elements. -/
theorem bandOf_congr (h : resolve i c d = .ok job) {j : Nat} (hj : j < job.nbands) (hagree : SourcesAgree job m m') :
    bandOf i job m' j = bandOf i job m j := by
  have hkind := kind_of_resolve h
  have hsx := sx_of_resolve h
  have hsy := (sy_of_resolve h).1
  cases hC : i.kind.isC with
  | false =>
    have hS : job.kind.isC = false := hkind ▸ hC
    have hnotDec : job.kind ≠ .dec := fun hdec => by rw [hdec] at hS; cases hS
    obtain ⟨f, hf⟩ := bandOf_formatS hC
    rw [hf]
    exact rowBand_congr f fun x hx => hagree.unpack hnotDec hx (nbands_formatS h hS ▸ hj)
  | true =>
    cases i with
    | enc =>
      have hnotDec : job.kind ≠ .dec := by rw [hkind]; nofun
      exact encBand_congr hsx hsy fun x hx y hy => hagree.unpack hnotDec hx hy
    | dec =>
      exact decBand_congr hsx hsy (fun x hx y hy => hagree.luma hkind hx hy)
        fun hs cx hcx => hagree.chroma hkind hs hcx hj
    | _ => cases hC

end

/-- Settles O53: both bands make the same stores, and each element reads as its store. -/
theorem bandsDependOnSourceBytesOnly : Obligations.BandsDependOnSourceBytesOnly := by
  intro i s s' t t' job hrun hrun' hrow hbytes he he' e hmem
  have ⟨_, hres, hj, _⟩ := hrun
  have hagree : SourcesAgree job s.mem s'.mem := fun e hsource => sample_congr (hbytes e hsource)
  have hstores := bandOf_congr hres hj hagree
  rw [← bandOf_elems (kind_of_resolve hres) s.mem s.rowPos.toNat] at hmem
  obtain ⟨st, hst, rfl⟩ := List.mem_map.1 hmem
  have hst' : st ∈ bandOf i job s'.mem s'.rowPos.toNat := by rwa [hrow, hstores]
  exact (sample_after_band hrun' he' hst').trans (sample_after_band hrun he hst).symm

end Sys2Proof.Machine
end

section
/-! Refusal and acceptance (60 R293 to R305). The encoding checks are read as one equation per outcome; each check on
planes refuses exactly the planes with its defect (`RefusesWhen`), so the first plane with the defect is the one reported
(`checkPlanes_of_first`), and a job passes exactly when no plane has any. -/

namespace Sys2Proof

/-- 8, 10, 12 and 16 are the only depths (30 R95). -/
theorem Depth.ofBits_eq_none {b : Nat} (h8 : b ≠ 8) (h10 : b ≠ 10) (h12 : b ≠ 12) (h16 : b ≠ 16) :
    Depth.ofBits b = none := by
  rw [Option.eq_none_iff_forall_ne_some]
  intro n hn
  have hbits := Depth.bits_of_ofBits hn
  cases n <;> simp only [Depth.bits] at hbits <;> omega

end Sys2Proof

namespace Sys2Proof.Machine

/-! ### The outcome of START (60 R293, R300) -/

section
variable {i : Instr} {c : Config} {d : Desc} {job : Job} {r : Refused}

theorem resolve_of_decodeJob_error (h : decodeJob i c d = .error r) : resolve i c d = .error r := by
  rw [resolve, h]

theorem resolve_of_checkJob_some (h : decodeJob i c d = .ok job) (hc : checkJob c job = some r) :
    resolve i c d = .error r := by
  simp only [resolve, h, hc]

/-- A refusal comes from the encoding checks or from the checks after them. -/
theorem resolve_error_cases (h : resolve i c d = .error r) :
    decodeJob i c d = .error r ∨ ∃ job, decodeJob i c d = .ok job ∧ checkJob c job = some r := by
  unfold resolve at h
  cases hj : decodeJob i c d with
  | error q =>
    rw [hj] at h
    exact .inl h
  | ok job =>
    cases hc : checkJob c job with
    | none => simp [hj, hc] at h
    | some q =>
      simp only [hj, hc, Except.error.injEq] at h
      exact .inr ⟨job, rfl, h ▸ hc⟩

/-- CTRL names no job, or the job it names is refused. -/
theorem currentJob_error_cases (h : currentJob c d = .error r) :
    (∃ e, decode d.ctrl = .error e ∧ r = ⟨.op, .desc .ctrl⟩) ∨
    ∃ i, decode d.ctrl = .ok i ∧ resolve i c d = .error r := by
  unfold currentJob at h
  cases hd : decode d.ctrl with
  | error e =>
    rw [hd] at h
    exact .inl ⟨e, rfl, (Except.error.inj h).symm⟩
  | ok i =>
    rw [hd] at h
    exact .inr ⟨i, rfl, h⟩

/-- A descriptor that is a job has a CTRL word that names it. -/
theorem currentJob_ok_cases (h : currentJob c d = .ok job) :
    ∃ i, decode d.ctrl = .ok i ∧ resolve i c d = .ok job := by
  unfold currentJob at h
  cases hd : decode d.ctrl with
  | error e => simp [hd] at h
  | ok i =>
    rw [hd] at h
    exact ⟨i, rfl, h⟩

theorem exec_of_resolve_error {s : State} (hb : s.busy = false) (h : resolve i s.cfg s.desc = .error r) :
    exec i s = .next (raiseRefusal r (startClear s)) := by
  rw [exec_eq_launch hb, launch, h]

/-- After a refusal irq follows the enable of ERR alone (60 R303). -/
theorem raiseRefusal_irq (r : Refused) (s : State) :
    (raiseRefusal r (startClear s)).irq = s.irqEn.getLsbD 1 := by
  simp [State.irq]

/-- A START of a word that names no job (60 R294). -/
theorem step_start_illegal {s : State} {rest : List Input} {e : CtrlError} (hb : s.busy = false)
    (hi : s.inputs = startInput :: rest) (hd : decode s.desc.ctrl = .error e) :
    step s = .next (launchIllegal { s with inputs := rest }) := by
  simp [step, nextTurn_start hi rfl hb, hd, illegalTurn, hb]

end

/-- Settles O17: what an idle instruction or a START does is `raiseRefusal` after `startClear`. -/
theorem refusedStartIsPrecise : Obligations.RefusedStartIsPrecise := by
  refine ⟨fun i s r hb hr => ⟨_, exec_of_resolve_error hb hr, raiseRefusal_refusedBy _ _ _, raiseRefusal_irq r s⟩,
    fun s rest r hb hi hr => ⟨raiseRefusal r (startClear { s with inputs := rest }), ?_,
      raiseRefusal_refusedBy _ _ _, raiseRefusal_irq r _⟩⟩
  obtain ⟨e, hd, rfl⟩ | ⟨i, hd, hres⟩ := currentJob_error_cases hr
  · exact step_start_illegal hb hi hd
  · rw [step_of_nextTurn_job (nextTurn_start hi rfl hb) hd]
    exact exec_of_resolve_error (s := { s with inputs := rest }) hb hres

/-! ### No fault (60 R292) -/

/-- In a state that meets the invariant the job that CTRL names launches or runs its band. -/
theorem exec_next_of_safe {s : State} {i : Instr} (h : Safe s) (hd : decode s.desc.ctrl = .ok i) :
    ∃ t, exec i s = .next t := by
  cases hb : s.busy with
  | false => exact ⟨_, exec_eq_launch hb⟩
  | true =>
    obtain ⟨job, hjob, hrow, -⟩ := h.underway hb
    obtain ⟨i', hd', hres⟩ := currentJob_ok_cases hjob
    obtain rfl : i' = i := Except.ok.inj (hd'.symm.trans hd)
    exact ⟨_, exec_eq_band hb hres hrow⟩

/-- A CTRL word that names no job gets its turn at a START only, as a busy engine has a job. -/
theorem illegalTurn_of_safe {s : State} {e : CtrlError} (h : Safe s) (hd : decode s.desc.ctrl = .error e) :
    illegalTurn s = .next (launchIllegal s) := by
  have hb : s.busy ≠ true := fun hb => by
    obtain ⟨job, hjob, -⟩ := h.underway hb
    obtain ⟨i, hd', -⟩ := currentJob_ok_cases hjob
    cases hd'.symm.trans hd
  rw [illegalTurn, if_neg hb]

/-- Settles O47: a turn settles, is no access of the port, or goes to a job that the invariant holds legal. -/
theorem safeStatesNeverFault : Obligations.SafeStatesNeverFault := by
  intro s f h hf
  unfold step at hf
  cases hn : nextTurn s with
  | settled t => simp [hn] at hf
  | badAccess => simp [hn] at hf
  | job u =>
    have hu : Safe u := nextTurn_job_safe h hn
    cases hd : decode u.desc.ctrl with
    | ok i =>
      obtain ⟨t, ht⟩ := exec_next_of_safe hu hd
      simp [hn, hd, ht] at hf
    | error e => simp [hn, hd, illegalTurn_of_safe hu hd] at hf

/-! ### The encoding checks (60 R294, R296, R301) -/

section
variable {i : Instr} {c : Config} {d : Desc} {f : Fmt} {n : Depth}

theorem decodeJob_of_badDepth (hf : decodeFmt d.fmt = .ok f) (hshape : fmtShapeOk i.kind f = true)
    (hn : effectiveDepth i f = none) : decodeJob i c d = .error ⟨.bits, .desc .fmt⟩ := by
  simp [decodeJob, hf, hshape, hn]

theorem decodeJob_of_ctrlUnsupported (hf : decodeFmt d.fmt = .ok f) (hshape : fmtShapeOk i.kind f = true)
    (hn : effectiveDepth i f = some n) (hctrl : i.ctrlUnsupported = true) :
    decodeJob i c d = .error ⟨.unsup, .desc .ctrl⟩ := by
  simp [decodeJob, hf, hshape, hn, hctrl]

theorem decodeJob_of_fmtUnsupported (hf : decodeFmt d.fmt = .ok f) (hshape : fmtShapeOk i.kind f = true)
    (hn : effectiveDepth i f = some n) (hctrl : i.ctrlUnsupported = false)
    (hfmt : fmtUnsupported i.kind f.surfA (f.surfB.getD f.surfA) n f.subs f.arr = true) :
    decodeJob i c d = .error ⟨.unsup, .desc .fmt⟩ := by
  simp [decodeJob, hf, hshape, hn, hctrl, hfmt]

theorem decodeJob_of_legal (hf : decodeFmt d.fmt = .ok f) (hshape : fmtShapeOk i.kind f = true)
    (hn : effectiveDepth i f = some n) (hctrl : i.ctrlUnsupported = false)
    (hfmt : fmtUnsupported i.kind f.surfA (f.surfB.getD f.surfA) n f.subs f.arr = false) :
    decodeJob i c d = .ok (makeJob i c d f n) := by
  simp [decodeJob, hf, hshape, hn, hctrl, hfmt]

/-- Of the encoding checks E_BITS is for FMT alone (60 R301). -/
theorem decodeJob_bits_reg {r : Reg} (h : decodeJob i c d = .error ⟨.bits, r⟩) : r = .desc .fmt := by
  unfold decodeJob at h
  cases hf : decodeFmt d.fmt with
  | error e => simp [hf] at h
  | ok f =>
    cases hn : effectiveDepth i f with
    | none =>
      simp only [hf, hn] at h
      split at h <;> cases h
      rfl
    | some n =>
      simp only [hf, hn] at h
      split_ifs at h <;> cases h

/-- The effective depth is the depth of that many bits (30 R94, R95). -/
theorem effectiveDepth_eq_ofBits (i : Instr) (f : Fmt) : effectiveDepth i f = Depth.ofBits (depthNumber i f) := by
  cases i <;> rfl

theorem effectiveDepth_eq_some_iff : effectiveDepth i f = some n ↔ n.bits = depthNumber i f := by
  rw [effectiveDepth_eq_ofBits]
  exact ⟨Depth.bits_of_ofBits, fun h => h ▸ n.ofBits_bits⟩

theorem effectiveDepth_of_dynamic (h : i.fixedDepth = none) : effectiveDepth i f = Depth.ofBits f.bits.toNat := by
  rw [effectiveDepth, h]

end

/-- Settles O26: E_BITS is the encoding checks' alone, and theirs for a depth in FMT alone. -/
theorem badDepthsRefused : Obligations.BadDepthsRefused := by
  refine ⟨fun i c d f hf hshape hdyn h8 h10 h12 h16 => ?_, fun i c d r h => ?_⟩
  · have hn : effectiveDepth i f = none :=
      (effectiveDepth_of_dynamic hdyn).trans (Depth.ofBits_eq_none h8 h10 h12 h16)
    exact resolve_of_decodeJob_error (decodeJob_of_badDepth hf hshape hn)
  · have hdecode : decodeJob i c d = .error ⟨.bits, r⟩ :=
      (resolve_error_cases h).resolve_right fun ⟨job, _, hc⟩ => checkJob_ne_bits c job hc
    have hdyn : i.fixedDepth = none :=
      Option.eq_none_iff_forall_ne_some.2 fun n hn => decodeJob_ne_bits hn c d hdecode
    refine ⟨decodeJob_bits_reg hdecode, hdyn, ?_, ?_, ?_, ?_, ?_, ?_⟩ <;> rintro rfl <;> cases hdyn

/-! ### The table of unsupported combinations (60 R296) -/

/-- The FMT rows of 60 R296 by operation. -/
def UnsupportedRowOf (k : JobKind) (f : Fmt) (n : Depth) : Prop :=
  match k with
  | .enc => ConversionRow f n
  | .dec => ConversionRow f n
  | .widen => n = .d8 ∨ SameLayoutRow f
  | .narrow => n = .d8 ∨ SameLayoutRow f
  | .perm => PermRow f n
  | .u2h => SameLayoutRow f
  | .h2u => SameLayoutRow f

theorem fmtUnsupportedRow_iff_kind (i : Instr) (f : Fmt) (n : Depth) :
    FmtUnsupportedRow i f n ↔ UnsupportedRowOf i.kind f n := by
  cases i <;> rfl

theorem ctrlUnsupported_iff (i : Instr) : i.ctrlUnsupported = true ↔ CtrlUnsupportedRow i := by
  cases i <;> simp [Instr.ctrlUnsupported, CtrlUnsupportedRow]

theorem ctrlUnsupported_of_formatS {i : Instr} (h : i.kind.isC = false) : i.ctrlUnsupported = false := by
  cases i with
  | enc => cases h
  | dec => cases h
  | _ => rfl

theorem fourChannels_iff (s : Surf) : FourChannels s ↔ s ≠ .rgba1010102 ∧ s.hasAlpha = true := by
  cases s <;> decide

section
variable {k : JobKind} {f : Fmt} {n : Depth}

/-- A legal format of a format S operation has a surface B (30 R91). -/
theorem surfB_of_formatS (hS : k.isC = false) (h : fmtShapeOk k f = true) : ∃ b, f.surfB = some b := by
  rw [← Option.ne_none_iff_exists']
  rintro hnone
  simp [fmtShapeOk, hS, hnone] at h

/-- ENC and DEC. -/
theorem conversion_unsupported_iff (hC : k.isC = true) (b : Surf) :
    fmtUnsupported k f.surfA b n f.subs f.arr = true ↔ ConversionRow f n := by
  cases k with
  | enc => simp [fmtUnsupported, packedDepthBad, or_assoc]
  | dec => simp [fmtUnsupported, packedDepthBad, or_assoc]
  | _ => cases hC

/-- PERM: exactly one packed surface and a four-channel other. -/
theorem perm_unsupported_iff {b : Surf} (hb : f.surfB = some b) :
    fmtUnsupported .perm f.surfA b n f.subs f.arr = true ↔ PermRow f n := by
  simp only [fmtUnsupported, packedDepthBad, PermRow, hb, fourChannels_iff, Option.some.injEq, Bool.or_eq_true,
    Bool.and_eq_true, beq_iff_eq, bne_iff_ne, exists_eq_left', or_and_right, or_assoc, and_assoc]

/-- The model's check of FMT is the table of 60 R296. -/
theorem fmtUnsupported_iff (h : fmtShapeOk k f = true) :
    fmtUnsupported k f.surfA (f.surfB.getD f.surfA) n f.subs f.arr = true ↔ UnsupportedRowOf k f n := by
  cases hk : k.isC with
  | true =>
    rw [conversion_unsupported_iff hk]
    cases k with
    | enc => rfl
    | dec => rfl
    | _ => cases hk
  | false =>
    obtain ⟨b, hb⟩ := surfB_of_formatS hk h
    rw [hb, Option.getD_some]
    cases k with
    | enc => cases hk
    | dec => cases hk
    | perm => exact perm_unsupported_iff hb
    | _ => simp [fmtUnsupported, UnsupportedRowOf, SameLayoutRow, hb]

end

/-- A row of the table for the operation is refused at FMT, where no cause of CTRL comes before it. -/
theorem resolve_of_unsupportedRow {i : Instr} {c : Config} {d : Desc} {f : Fmt} {n : Depth}
    (hf : decodeFmt d.fmt = .ok f) (hshape : fmtShapeOk i.kind f = true) (hn : effectiveDepth i f = some n)
    (hctrl : ¬CtrlUnsupportedRow i) (hrow : UnsupportedRowOf i.kind f n) :
    resolve i c d = .error ⟨.unsup, .desc .fmt⟩ :=
  resolve_of_decodeJob_error (decodeJob_of_fmtUnsupported hf hshape hn
    (by rwa [← ctrlUnsupported_iff, Bool.not_eq_true] at hctrl) ((fmtUnsupported_iff hshape).2 hrow))

/-- Settles O27: every clause is a row of the table, of CTRL or of the operation. -/
theorem unsupportedCombinationsRefused : Obligations.UnsupportedCombinationsRefused := by
  intro i c d f n hf hshape hn
  have hformatS : i.kind.isC = false → UnsupportedRowOf i.kind f n → resolve i c d = .error ⟨.unsup, .desc .fmt⟩ :=
    fun hS => resolve_of_unsupportedRow hf hshape hn (by rw [← ctrlUnsupported_iff, ctrlUnsupported_of_formatS hS]; nofun)
  refine ⟨fun model rot range tf hi => ⟨fun h => ?_, fun hmodel htf hrow => ?_⟩, fun hk hrow => ?_, fun hk hrow => ?_,
    fun b hk hb hrow => ?_⟩
  · have hctrl : CtrlUnsupportedRow i := by obtain rfl | rfl := hi <;> exact h
    exact resolve_of_decodeJob_error (decodeJob_of_ctrlUnsupported hf hshape hn ((ctrlUnsupported_iff i).2 hctrl))
  · subst hmodel htf
    obtain rfl | rfl := hi <;> exact resolve_of_unsupportedRow hf hshape hn (by simp [CtrlUnsupportedRow]) hrow
  · obtain hk | hk := hk <;> rw [hk] at hformatS <;> exact hformatS rfl hrow
  · obtain hk | hk := hk <;> rw [hk] at hformatS <;> exact hformatS rfl hrow
  · rw [hk] at hformatS
    refine hformatS rfl ?_
    simpa [UnsupportedRowOf, PermRow, hb] using hrow

/-! ### A check that is made of every plane (60 R293) -/

/-- Among the planes of the job the check refuses those with the defect, and reports `report` of them. -/
def RefusesWhen (job : Job) (check : Plane → Option Refused) (bad : Plane → Prop) (report : Plane → Refused) : Prop :=
  ∀ p ∈ job.planes, (bad p → check p = some (report p)) ∧ (¬bad p → check p = none)

section
variable {job : Job} {p : Plane} {check : Plane → Option Refused} {bad : Plane → Prop} {report : Plane → Refused}

theorem RefusesWhen.allPass_iff (h : RefusesWhen job check bad report) :
    AllPass check job ↔ ∀ p ∈ job.planes, ¬bad p := by
  refine forall₂_congr fun p hp => ?_
  obtain ⟨hbad, hok⟩ := h p hp
  exact ⟨fun hnone hb => Option.some_ne_none _ ((hbad hb).symm.trans hnone), hok⟩

theorem RefusesWhen.of_ite {dec : ∀ p, Decidable (bad p)}
    (h : ∀ p ∈ job.planes, check p = if bad p then some (report p) else none) : RefusesWhen job check bad report :=
  fun p hp => ⟨fun hb => (h p hp).trans (if_pos hb), fun hb => (h p hp).trans (if_neg hb)⟩

/-- What passes before the first refusal of a list of checks does not matter. -/
theorem firstOf_append_some {l l' : List (Option Refused)} {r : Refused} (h : ∀ o ∈ l, o = none) :
    firstOf (l ++ some r :: l') = some r := by
  induction l with
  | nil => rfl
  | cons o rest ih =>
    have ⟨ho, hrest⟩ := List.forall_mem_cons.1 h
    rw [ho]
    exact ih hrest

/-- The plane reported is the first with the defect. -/
theorem checkPlanes_of_first (h : RefusesWhen job check bad report) (hp : FirstPlane bad job p) :
    firstOf (job.planes.map check) = some (report p) := by
  obtain ⟨before, after, hplanes, hbad, hbefore⟩ := hp
  have hrefused : check p = some (report p) := (h p (by simp [hplanes])).1 hbad
  rw [hplanes, List.map_append, List.map_cons, hrefused]
  refine firstOf_append_some fun o ho => ?_
  obtain ⟨q, hq, rfl⟩ := List.mem_map.1 ho
  exact (h q (by simp [hplanes, hq])).2 (hbefore q hq)

theorem checkPlanes_of_allPass (h : AllPass check job) : firstOf (job.planes.map check) = none :=
  firstOf_eq_none.2 (List.forall_mem_map.2 h)

end

/-! ### What each check finds (60 R298, R299, R302, R304, R305) -/

/-- A pointer or a stride off its alignment (60 R298). -/
def Plane.Misaligned (p : Plane) : Prop := p.ptr % p.align ≠ 0 ∨ p.stride % p.align ≠ 0

/-- A destination of the job whose footprint meets another plane's (60 R305). -/
def Job.Clash (job : Job) (p : Plane) : Prop :=
  p.isDest = true ∧ ∃ r ∈ job.planes, r ≠ p ∧ p.ptr < r.hi ∧ r.ptr < p.hi

section
variable (job : Job)

theorem nullCheck_refusesWhen :
    RefusesWhen job nullCheck (fun p => p.ptr = 0) fun p => ⟨.null, .desc p.ptrReg⟩ :=
  .of_ite fun _ _ => rfl

theorem strideCheck_refusesWhen :
    RefusesWhen job strideCheck (fun p => p.stride < p.rowBytes) fun p => ⟨.stride, .desc p.strideReg⟩ :=
  .of_ite fun _ _ => rfl

theorem rangeCheck_refusesWhen :
    RefusesWhen job rangeCheck (fun p => 2 ^ 32 < p.ptr + p.stride * (p.rows - 1) + p.rowBytes)
      fun p => ⟨.range, .desc p.ptrReg⟩ :=
  .of_ite fun _ _ => rfl

/-- The pointer is reported before the stride. -/
theorem alignCheck_refusesWhen :
    RefusesWhen job alignCheck Plane.Misaligned
      fun p => ⟨.align, .desc (if p.ptr % p.align ≠ 0 then p.ptrReg else p.strideReg)⟩ := by
  intro p _
  unfold alignCheck Plane.Misaligned
  by_cases hptr : p.ptr % p.align = 0 <;> simp [hptr]

/-- Two planes of a job are the same where their pointer registers are. -/
theorem Job.ptrReg_ne_iff {job : Job} {p q : Plane} (hp : p ∈ job.planes) (hq : q ∈ job.planes) :
    q.ptrReg ≠ p.ptrReg ↔ q ≠ p :=
  not_congr ⟨fun h => List.inj_on_of_nodup_map job.planes_regs hq hp h, congrArg Plane.ptrReg⟩

theorem overlapCheck_refusesWhen :
    RefusesWhen job (overlapCheck job.planes) job.Clash fun p => ⟨.overlap, .desc p.ptrReg⟩ := by
  intro p hp
  have hclash : (p.isDest && job.planes.any fun q => q.ptrReg != p.ptrReg && p.meets q) = true ↔ job.Clash p := by
    simp only [Job.Clash, Bool.and_eq_true, List.any_eq_true, bne_iff_ne, Plane.meets, decide_eq_true_eq]
    refine and_congr_right fun _ => exists_congr fun q => and_congr_right fun hq => ?_
    rw [Job.ptrReg_ne_iff hp hq]
  rw [← hclash]
  exact ⟨fun h => if_pos h, fun h => if_neg h⟩

end

/-! ### Refusals of the descriptor's values (60 R297 to R299, R302, R304, R305) -/

/-- Settles O20: WIDTH is checked before HEIGHT, and both before the planes. -/
theorem badDimensionsRefused : Obligations.BadDimensionsRefused := by
  refine ⟨fun i c d job hj => ⟨fun hw => ?_, fun hw hh => ?_⟩, rfl, rfl⟩
  · have hdim : dimCheck c job = some ⟨.dim, .desc .width⟩ := if_pos hw
    exact resolve_of_checkJob_some hj (by rw [checkJob, hdim, firstOf])
  · have hdim : dimCheck c job = some ⟨.dim, .desc .height⟩ := (if_neg hw).trans (if_pos hh)
    exact resolve_of_checkJob_some hj (by rw [checkJob, hdim, firstOf])

/-- Settles O21: the first class of checks on planes. -/
theorem nullPointersRefused : Obligations.NullPointersRefused := by
  refine ⟨fun i c d job p hj hdim hp => resolve_of_checkJob_some hj ?_, rfl, rfl, rfl, rfl, rfl⟩
  simp only [checkJob, hdim, checkPlanes_of_first (nullCheck_refusesWhen job) hp, firstOf]

/-- Settles O22: the second class, pointer before stride. -/
theorem misalignmentRefused : Obligations.MisalignmentRefused := by
  refine fun i c d job p hj hdim hnull hp => resolve_of_checkJob_some hj ?_
  simp only [checkJob, hdim, checkPlanes_of_allPass hnull, checkPlanes_of_first (alignCheck_refusesWhen job) hp, firstOf]

/-- Settles O23: the third class. -/
theorem shortStridesRefused : Obligations.ShortStridesRefused := by
  refine ⟨fun i c d job p hj hdim hnull halign hp => resolve_of_checkJob_some hj ?_, rfl, rfl, rfl, rfl, rfl⟩
  simp only [checkJob, hdim, checkPlanes_of_allPass hnull, checkPlanes_of_allPass halign,
    checkPlanes_of_first (strideCheck_refusesWhen job) hp, firstOf]

/-- Settles O24: the fourth class. -/
theorem footprintsPastTheTopRefused : Obligations.FootprintsPastTheTopRefused := by
  refine fun i c d job p hj hdim hnull halign hstride hp => resolve_of_checkJob_some hj ?_
  simp only [checkJob, hdim, checkPlanes_of_allPass hnull, checkPlanes_of_allPass halign,
    checkPlanes_of_allPass hstride, checkPlanes_of_first (rangeCheck_refusesWhen job) hp, firstOf]

/-- Settles O25: the last class. -/
theorem overlappingDestinationsRefused : Obligations.OverlappingDestinationsRefused := by
  refine fun i c d job p hj hdim hnull halign hstride hrange hp => resolve_of_checkJob_some hj ?_
  simp only [checkJob, hdim, checkPlanes_of_allPass hnull, checkPlanes_of_allPass halign,
    checkPlanes_of_allPass hstride, checkPlanes_of_allPass hrange,
    checkPlanes_of_first (overlapCheck_refusesWhen job) hp, firstOf]

/-! ### Acceptance (60 R293) -/

/-- 60 R294: of the words that decode, the illegal ones are those of the wrong shape for the operation. -/
theorem fmtIllegal_iff_shape {i : Instr} {w : Word} {f : Fmt} (hf : decodeFmt w = .ok f) :
    ¬FmtIllegal i w ↔ fmtShapeOk i.kind f = true := by
  refine ⟨fun hlegal => ?_, fun hshape hw => by simp [fmtShapeOk_of_illegal hw hf] at hshape⟩
  obtain ⟨-, hb, -, hsubs, harr, -⟩ := decodeFmt_eq_ok_iff.1 hf
  simp only [FmtIllegal, not_or, hb, hsubs, harr, ne_eq, surfBCode_eq_zero, Subs.code_eq_zero, Arr.code_eq_zero] at hlegal
  obtain ⟨-, -, -, -, -, -, hC, hS⟩ := hlegal
  cases h : formatC i with
  | true => simpa [fmtShapeOk, isC_kind, h] using hC
  | false => simpa [fmtShapeOk, isC_kind, h, and_assoc] using hS

theorem operationOf_eq (i : Instr) : operationOf i = i.kind := by cases i <;> rfl

theorem rangeOf_eq (i : Instr) : rangeOf i = i.range := by cases i <;> rfl

theorem factorsOf_eq (c : Config) (su : Subs) : factorsOf c su = subsFactors c su := by
  cases su with
  | s410 => cases h : c.sy410 <;> simp [factorsOf, subsFactors, sy410Value, h]
  | _ => rfl

/-- The encoding checks give a job exactly when all of them pass, and then `makeJob` of the descriptor. -/
theorem decodeJob_eq_ok_iff {i : Instr} {c : Config} {d : Desc} {job : Job} :
    decodeJob i c d = .ok job ↔
      ∃ f n, decodeFmt d.fmt = .ok f ∧ ¬FmtIllegal i d.fmt ∧ n.bits = depthNumber i f ∧ ¬CtrlUnsupportedRow i ∧
        ¬FmtUnsupportedRow i f n ∧ job = makeJob i c d f n := by
  constructor
  · intro h
    obtain ⟨f, n, hf, hshape, hn, hctrl, hfmt, rfl⟩ := decodeJob_eq_ok h
    refine ⟨f, n, hf, (fmtIllegal_iff_shape hf).2 hshape, effectiveDepth_eq_some_iff.1 hn, ?_, ?_, rfl⟩
    · rwa [← ctrlUnsupported_iff, Bool.not_eq_true]
    · rwa [fmtUnsupportedRow_iff_kind, ← fmtUnsupported_iff hshape, Bool.not_eq_true]
  · rintro ⟨f, n, hf, hlegal, hn, hctrl, hfmt, rfl⟩
    have hshape := (fmtIllegal_iff_shape hf).1 hlegal
    refine decodeJob_of_legal hf hshape (effectiveDepth_eq_some_iff.2 hn) ?_ ?_
    · rwa [← ctrlUnsupported_iff, Bool.not_eq_true] at hctrl
    · rwa [fmtUnsupportedRow_iff_kind, ← fmtUnsupported_iff hshape, Bool.not_eq_true] at hfmt

theorem bpp_eq_pixelBytes (f : Surf) (es : Nat) : f.bpp es = pixelBytes f es := by
  rw [Surf.bpp, Surf.count_eq, pixelBytes]

section
variable {job : Job}

/-! The chroma planes of an arrangement (41 R166). -/

theorem Job.chromaPlanes_s400 (hs : job.subs = .s400) (dest : Bool) : job.chromaPlanes dest = [] := by
  simp [Job.chromaPlanes, Job.hasChroma, hs]

theorem Job.chromaPlanes_p3 (hs : job.subs ≠ .s400) (harr : job.arr = .p3) (dest : Bool) :
    job.chromaPlanes dest = [job.planeU dest, job.planeV dest] := by
  simp [Job.chromaPlanes, Job.hasChroma, hs, harr]

theorem Job.chromaPlanes_semiPlanar (hs : job.subs ≠ .s400) (harr : job.arr ≠ .p3) (dest : Bool) :
    job.chromaPlanes dest = [job.planeU dest] := by
  simp [Job.chromaPlanes, Job.hasChroma, hs, harr]

theorem Job.planeU_p3 (harr : job.arr = .p3) (dest : Bool) :
    job.planeU dest = ⟨.uPtr, .uStride, dest, job.uPtr, job.uStride, job.es, job.cw * job.es, job.ch⟩ := by
  rw [Job.planeU, if_pos harr]

theorem Job.planeU_semiPlanar (harr : job.arr ≠ .p3) (dest : Bool) :
    job.planeU dest = ⟨.uPtr, .uStride, dest, job.uPtr, job.uStride, job.es, 2 * job.cw * job.es, job.ch⟩ := by
  rw [Job.planeU, if_neg harr]

end

/-- The planes of a job are those of the table of 60 R295, by its arrangement and then its operation. -/
theorem planes_eq_planeTable (job : Job) : job.planes = planeTable job := by
  unfold Job.planes planeTable
  simp only [job.surfaceBytes_eq, ← Depth.es_eq, ← bpp_eq_pixelBytes]
  by_cases hs : job.subs = .s400
  · simp only [Job.chromaPlanes_s400 hs, if_pos hs]
    cases job.kind <;> rfl
  · cases harr : job.arr with
    | p3 =>
      simp only [Job.chromaPlanes_p3 hs harr, Job.planeU_p3 harr, if_neg hs]
      cases job.kind <;> rfl
    | _ =>
      have hsemi : job.arr ≠ .p3 := by rw [harr]; nofun
      simp only [Job.chromaPlanes_semiPlanar hs hsemi, Job.planeU_semiPlanar hsemi, if_neg hs]
      cases job.kind <;> rfl

section
variable {c : Config} {job : Job} {p : Plane}

theorem dimCheck_eq_none_iff :
    dimCheck c job = none ↔ (1 ≤ job.w ∧ job.w ≤ c.maxDim.toNat) ∧ 1 ≤ job.h ∧ job.h ≤ c.maxDim.toNat := by
  unfold dimCheck
  split_ifs <;> simp only [false_iff, true_iff] <;> omega

theorem not_misaligned_iff : ¬p.Misaligned ↔ p.ptr % p.align = 0 ∧ p.stride % p.align = 0 := by
  simp [Plane.Misaligned]

/-- A plane does not clash when it is a source, or its footprint lies apart from every other. -/
theorem Job.not_clash_iff :
    ¬job.Clash p ↔ (p.isDest = true → ∀ q ∈ job.planes, q ≠ p → p.hi ≤ q.ptr ∨ q.hi ≤ p.ptr) := by
  simp only [Job.Clash, not_and, not_exists, not_lt]
  refine forall_congr' fun _ => forall_congr' fun q => forall₂_congr fun _ _ => ?_
  omega

/-- The checks d to i pass when the dimensions are legal and no plane has a defect. -/
theorem checkJob_eq_none_iff :
    checkJob c job = none ↔ dimCheck c job = none ∧ ∀ p ∈ job.planes, ¬p.ptr = 0 ∧ ¬p.Misaligned ∧
      ¬p.stride < p.rowBytes ∧ ¬2 ^ 32 < p.ptr + p.stride * (p.rows - 1) + p.rowBytes ∧ ¬job.Clash p := by
  have hclasses : checkJob c job = none ↔ dimCheck c job = none ∧ AllPass nullCheck job ∧ AllPass alignCheck job ∧
      AllPass strideCheck job ∧ AllPass rangeCheck job ∧ AllPass (overlapCheck job.planes) job := by
    simp [checkJob, firstOf_eq_none]
  rw [hclasses, (nullCheck_refusesWhen job).allPass_iff, (alignCheck_refusesWhen job).allPass_iff,
    (strideCheck_refusesWhen job).allPass_iff, (rangeCheck_refusesWhen job).allPass_iff,
    (overlapCheck_refusesWhen job).allPass_iff]
  simp only [forall_and]

end

/-- Settles O19: the encoding checks, the table of planes, and the checks after them, each by its own lemma. -/
theorem acceptedExactlyWhenChecksPass : Obligations.AcceptedExactlyWhenChecksPass := by
  refine ⟨fun i c d job => ?_, planes_eq_planeTable, fun i c d job => ?_⟩
  · simp only [decodeJob_eq_ok_iff, operationOf_eq, rangeOf_eq, factorsOf_eq]
    rfl
  · rw [resolve_eq_ok, checkJob_eq_none_iff, dimCheck_eq_none_iff, and_assoc]
    simp only [not_misaligned_iff, Job.not_clash_iff, not_lt, and_assoc, ne_eq]

end Sys2Proof.Machine
end
